-- ==== Sys2Proof/Word.lean ====
section
/-! DEFINITION. The two widths of the block: an 8-bit byte (status, command and data bytes, `CUR_COL`) and the
16-bit operation word (30_encoding.md rule R56). -/

namespace Sys2Proof

/-- A byte on its way to or from the controller (20_memory.md rule R44). A unit of `W` lines is held in a byte
whose bits from `W` up are zero. -/
abbrev Byte := BitVec 8

/-- An operation word, `op[15:0]` (30_encoding.md rule R56). -/
abbrev OpWord := BitVec 16

end Sys2Proof
end

