-- ==== Sys2Proof/Config.lean ====
section
/-! DEFINITION. The configuration record `cfg` (00_scope.md rules R6 to R11), its well-formedness, one instance
of it, and the free values the spec leaves to the environment (10_state.md rules R31 and R32). -/

namespace Sys2Proof

/-- `W`, the number of data lines (00_scope.md rule R6): narrow-bus or wide-bus mode. -/
inductive BusWidth
  | w4
  | w8
  deriving DecidableEq, Repr

/-- The number `W` itself. -/
def BusWidth.lines : BusWidth → Nat
  | .w4 => 4
  | .w8 => 8

/-- How many units (strobes) carry one byte (20_memory.md rule R44). -/
def BusWidth.unitsPerByte : BusWidth → Nat
  | .w4 => 2
  | .w8 => 1

/-- `PINMAP` (00_scope.md rule R6): which physical pin is which line. No rule of the block reads it. -/
structure PinMap where
  data : List Nat
  rs : Nat
  rw : Nat
  e : Nat
  bl : Nat
  deriving DecidableEq, Repr

/-- All pins of a pin map. -/
def PinMap.pins (p : PinMap) : List Nat := [p.rs, p.rw, p.e, p.bl] ++ p.data

/-- The timing parameters (00_scope.md rule R10), in nanoseconds. No rule of the block reads them: they bound
what an implementation and its host must wait. `tStep` holds `T_STEP[1]` to `T_STEP[9]`. -/
structure Timing where
  tEpw : Nat
  tSetup : Nat
  tHold : Nat
  tPower : Nat
  tStep : List Nat
  deriving DecidableEq, Repr

/-- The least time the host waits at `DELAY k` (30_encoding.md rule R72, 70_reset_and_hazards.md rule R159):
`T_POWER` for `k = 0`, `T_STEP[k]` for `k = 1 .. 9`, nothing named for another `k`. -/
def Timing.delay? (t : Timing) : Nat → Option Nat
  | 0 => some t.tPower
  | k + 1 => t.tStep[k]?

/-- The configuration record `cfg` (00_scope.md rules R6 to R11): fixed for the whole run. -/
structure Cfg where
  /-- `W` -/
  width : BusWidth
  /-- `N`, characters per row -/
  cols : Nat
  /-- `R`, number of rows -/
  rows : Nat
  /-- `CMD_CLEAR` -/
  cmdClear : Byte
  /-- `CMD_HOME` -/
  cmdHome : Byte
  /-- `SET_DDRAM` -/
  setDdram : Byte
  /-- `CMD_DISPLAY_ON` -/
  cmdDisplayOn : Byte
  /-- `CMD_DISPLAY_OFF` -/
  cmdDisplayOff : Byte
  /-- `PWM_TOP` -/
  pwmTop : Nat
  /-- `F_PWM`, in hertz -/
  fPwm : Nat
  /-- `BL_ON_LEVEL`: the electrical level (true = 1) of the backlight pin at the logical level `on` -/
  blOnLevel : Bool
  /-- `FEAT_WRAP` -/
  featWrap : Bool
  /-- `PINMAP` -/
  pins : PinMap
  /-- `T_EPW`, `T_SETUP`, `T_HOLD`, `T_POWER`, `T_STEP[k]` -/
  timing : Timing
  deriving DecidableEq, Repr

/-- A legal geometry (00_scope.md rule R7). -/
abbrev Cfg.GeometryWF (c : Cfg) : Prop :=
  1 ≤ c.rows ∧ c.rows ≤ 4 ∧ 1 ≤ c.cols ∧ (c.rows ≤ 2 → c.cols ≤ 64) ∧ (3 ≤ c.rows → c.cols ≤ 32)

/-- The constraints on the command bytes (00_scope.md rule R8). -/
abbrev Cfg.CommandsWF (c : Cfg) : Prop :=
  [c.cmdClear, c.cmdHome, c.setDdram, c.cmdDisplayOn, c.cmdDisplayOff].Nodup ∧
    c.setDdram = 0x80 ∧ c.cmdClear.msb = false ∧ c.cmdHome.msb = false

/-- The constraints on what no rule reads (92_eei_decisions.md P3, P7): an injective pin map with at least `W`
data lines, positive durations, nine step delays. -/
abbrev Cfg.BoardWF (c : Cfg) : Prop :=
  c.pins.pins.Nodup ∧ c.width.lines ≤ c.pins.data.length ∧ 0 < c.timing.tEpw ∧ 0 < c.timing.tSetup ∧
    0 < c.timing.tHold ∧ 0 < c.timing.tPower ∧ c.timing.tStep.length = 9 ∧ ∀ t ∈ c.timing.tStep, 0 < t

/-- What every `cfg` must meet (00_scope.md rules R7 to R10). -/
abbrev Cfg.WF (c : Cfg) : Prop :=
  c.GeometryWF ∧ c.CommandsWF ∧ 1 ≤ c.pwmTop ∧ c.BoardWF

/-- One instance: an 8-bit bus, 16 columns by 2 rows, the default command bytes of rule R8, `PWM_TOP = 255`,
line-wrap built in, and typical times. DESIGN CHOICE (notes/assumptions/1.md): the spec fixes none of these; the
statements about the model hold for every well-formed `cfg`. -/
def Cfg.default : Cfg where
  width := .w8
  cols := 16
  rows := 2
  cmdClear := 0x01
  cmdHome := 0x02
  setDdram := 0x80
  cmdDisplayOn := 0x0C
  cmdDisplayOff := 0x08
  pwmTop := 255
  fPwm := 1000
  blOnLevel := true
  featWrap := true
  pins := { data := [0, 1, 2, 3, 4, 5, 6, 7], rs := 8, rw := 9, e := 10, bl := 11 }
  timing :=
    { tEpw := 450, tSetup := 60, tHold := 20, tPower := 40000000
      tStep := [4100000, 100000, 100000, 37000, 37000, 37000, 1520000, 37000, 37000] }

/-- The free answer of the controller to the `n`-th `Sample()` (10_state.md rule R32, 41_busy_flag_sync.md rule
R91): nothing constrains it. The low `W` bits are what the block samples. -/
opaque Config.freeSample : Nat → Byte

/-- The free position of the PWM counter at the `n`-th step (10_state.md rule R31, 93_implementation_defined.md
U7): nothing constrains it. -/
opaque Config.freeCount : Nat → Nat

end Sys2Proof
end

