-- ==== Sys2Proof/Syntax.lean ====
section
/-! DEFINITION. The operations of the block as syntax (30_encoding.md rules R57 to R63), the pseudo-operations
of rule R72, and what a host does at the operation port (10_state.md rules R17 and R20). -/

namespace Sys2Proof

/-- One constructor per row of the opcode table (30_encoding.md rule R61), operands in assembler order. -/
inductive Instr
  /-- `WAITRDY` (41_busy_flag_sync.md rule R90) -/
  | waitrdy
  /-- `WRN rs, unit` (40_bus_transport.md rule R79); the unit is the word's byte field -/
  | wrn (rs : Bool) (unit : Byte)
  /-- `XFERRAW rs, byte` (rule R80) -/
  | xferraw (rs : Bool) (byte : Byte)
  /-- `XFER rs, byte` (rule R81) -/
  | xfer (rs : Bool) (byte : Byte)
  /-- `GOTO col, row` (42_ddram_address.md rule R101) -/
  | goto (col : BitVec 8) (row : BitVec 4)
  /-- `WRAP` (rule R104) -/
  | wrap
  /-- `BRIGHT pct` (43_pwm_backlight.md rule R111) -/
  | bright (pct : BitVec 8)
  deriving DecidableEq, Repr

/-- The mnemonic of each operation (30_encoding.md rule R61). -/
def Instr.mnemonic : Instr → String
  | .waitrdy => "WAITRDY"
  | .wrn _ _ => "WRN"
  | .xferraw _ _ => "XFERRAW"
  | .xfer _ _ => "XFER"
  | .goto _ _ => "GOTO"
  | .wrap => "WRAP"
  | .bright _ => "BRIGHT"

/-- The opcode, bits 15:12 of the word (30_encoding.md rule R61). -/
def Instr.opcode : Instr → BitVec 4
  | .waitrdy => 0x1
  | .wrn _ _ => 0x2
  | .xferraw _ _ => 0x3
  | .xfer _ _ => 0x4
  | .goto _ _ => 0x5
  | .wrap => 0x6
  | .bright _ => 0x7

/-- One line of a host program (30_encoding.md rules R71 and R72): an operation, a pseudo-operation, or the
directive `DELAY k`. -/
inductive AsmLine
  | op (i : Instr)
  | cmd (byte : Byte)
  | putc (byte : Byte)
  | clear
  | home
  | delay (k : Nat)
  deriving DecidableEq, Repr

/-- The one operation a line stands for (30_encoding.md rule R72); `DELAY` has none. -/
def AsmLine.instr? (c : Cfg) : AsmLine → Option Instr
  | .op i => some i
  | .cmd b => some (.xfer false b)
  | .putc b => some (.xfer true b)
  | .clear => some (.xfer false c.cmdClear)
  | .home => some (.xfer false c.cmdHome)
  | .delay _ => none

/-- What the host does next. The list of these in State is the block's input. -/
inductive HostAct
  /-- wait for `BUSY = 0`, then present the word (70_reset_and_hazards.md rule R147) -/
  | op (w : OpWord)
  /-- present the word at once, `BUSY` or not (10_state.md rule R20) -/
  | opNow (w : OpWord)
  /-- `DELAY k`: wait, changing no block state (30_encoding.md rule R72) -/
  | delay (k : Nat)
  /-- reset the block (70_reset_and_hazards.md rule R136) -/
  | reset
  deriving DecidableEq, Repr

end Sys2Proof
end

