-- ==== Sys2Proof/WellFormed.lean ====
section
/-! DEFINITION. Which operations a configuration has (30_encoding.md rule R66): the two checks that depend on
`cfg`, by name, and the reasons a word is reserved. -/

namespace Sys2Proof

/-- Why a word is a reserved encoding (30_encoding.md rule R66). -/
inductive Reserved
  /-- the opcode is `0x0` or `0x8` to `0xF` -/
  | opcode
  /-- a bit the format calls zero is set -/
  | zeroBits
  /-- a WRN with `W = 4` and `byte[7:4] != 0` (rule R63) -/
  | wideUnit
  /-- WRAP with `FEAT_WRAP` false (00_scope.md rule R11) -/
  | noWrap
  deriving DecidableEq, Repr

/-- A unit the bus can carry: `W` bits. -/
def fitsBus (w : BusWidth) (u : Byte) : Bool :=
  match w with
  | .w8 => true
  | .w4 => u.extractLsb' 4 4 == 0#4

/-- The reason `cfg` does not have an operation, if there is one (30_encoding.md rules R63 and R66). A GOTO
outside the geometry is well-formed: `0x5000` "decodes as `GOTO 0, 0`, a legal word whose execution is refused"
(95_test_vectors.md section 2.1). -/
def Instr.reserved? (c : Cfg) : Instr → Option Reserved
  | .wrn _ u => if fitsBus c.width u then none else some .wideUnit
  | .wrap => if c.featWrap then none else some .noWrap
  | .waitrdy => none
  | .xferraw _ _ => none
  | .xfer _ _ => none
  | .goto _ _ => none
  | .bright _ => none

/-- The operation exists under `cfg`. -/
abbrev Instr.WF (c : Cfg) (i : Instr) : Prop := i.reserved? c = none

end Sys2Proof
end

