-- ==== Sys2Proof/Decode.lean ====
section
/-! DEFINITION. The decoder, total on all 65536 words and refusing by name, then the encoder
(30_encoding.md rules R56 to R63 and R66), the opcode map of rule R61 as rows of mask and match, and the
assembler of rules R71 and R72. -/

namespace Sys2Proof

/-- Format N (30_encoding.md rule R57): bits 11:0 are zero. -/
def decodeN (w : OpWord) (i : Instr) : Except Reserved Instr :=
  if w.extractLsb' 0 12 = 0#12 then .ok i else .error .zeroBits

/-- Format T (30_encoding.md rule R58): bits 11:9 zero, `rs` in bit 8, `byte` in bits 7:0. -/
def decodeT (w : OpWord) (f : Bool → Byte → Instr) : Except Reserved Instr :=
  if w.extractLsb' 9 3 = 0#3 then .ok (f (w.getLsbD 8) (w.extractLsb' 0 8)) else .error .zeroBits

/-- Format G (30_encoding.md rule R59): `row` in bits 11:8, `col` in bits 7:0. -/
def decodeG (w : OpWord) : Except Reserved Instr :=
  .ok (.goto (w.extractLsb' 0 8) (w.extractLsb' 8 4))

/-- Format P (30_encoding.md rule R60): bits 11:8 zero, `pct` in bits 7:0. -/
def decodeP (w : OpWord) : Except Reserved Instr :=
  if w.extractLsb' 8 4 = 0#4 then .ok (.bright (w.extractLsb' 0 8)) else .error .zeroBits

/-- The opcode map (30_encoding.md rule R61), before the checks that depend on `cfg`. -/
def decodeFields (w : OpWord) : Except Reserved Instr :=
  match (w.extractLsb' 12 4).toNat with
  | 1 => decodeN w .waitrdy
  | 2 => decodeT w .wrn
  | 3 => decodeT w .xferraw
  | 4 => decodeT w .xfer
  | 5 => decodeG w
  | 6 => decodeN w .wrap
  | 7 => decodeP w
  | _ => .error .opcode

/-- The decoder (30_encoding.md rules R56 and R66): the operation a word spells under `cfg`, or why it is
reserved. -/
def decode (c : Cfg) (w : OpWord) : Except Reserved Instr :=
  match decodeFields w with
  | .error r => .error r
  | .ok i =>
    match i.reserved? c with
    | none => .ok i
    | some r => .error r

/-- Format T assembled on its opcode (30_encoding.md rules R58 and R71): `op | rs << 8 | byte`. -/
def encodeT (op : OpWord) (rs : Bool) (b : Byte) : OpWord :=
  op ||| (BitVec.ofBool rs).setWidth 16 <<< 8 ||| b.setWidth 16

/-- The encoder: the word of each operation (30_encoding.md rules R57 to R61, and R71's `word` column). -/
def encode : Instr → OpWord
  | .waitrdy => 0x1000
  | .wrn rs u => encodeT 0x2000 rs u
  | .xferraw rs b => encodeT 0x3000 rs b
  | .xfer rs b => encodeT 0x4000 rs b
  | .goto col row => 0x5000 ||| row.setWidth 16 <<< 8 ||| col.setWidth 16
  | .wrap => 0x6000
  | .bright pct => 0x7000 ||| pct.setWidth 16

/-- The decoder on the table's own numbering of bits (bit 0 the least significant): one word of 16 bits, read
under `Cfg.default` (wide bus, line-wrap built in). -/
def decodeTableWord (nbits w : Nat) : Option Instr :=
  if nbits ≤ 16 ∧ w < 65536 then
    match decode Cfg.default (BitVec.ofNat 16 w) with
    | .ok i => some i
    | .error _ => none
  else none

/-- A row of the opcode map (30_encoding.md rule R61): a word `w` spells the operation exactly when
`w & mask = pattern`. -/
structure OpRow where
  name : String
  pattern : OpWord
  mask : OpWord
  deriving DecidableEq, Repr

/-- The opcode map as rows (30_encoding.md rule R61). WRN's mask depends on `W`; WRAP has a row only with
`FEAT_WRAP`. -/
def opcodeRows (c : Cfg) : List OpRow :=
  [ ⟨"WAITRDY", 0x1000, 0xFFFF⟩,
    ⟨"WRN", 0x2000, match c.width with | .w8 => 0xFE00 | .w4 => 0xFEF0⟩,
    ⟨"XFERRAW", 0x3000, 0xFE00⟩,
    ⟨"XFER", 0x4000, 0xFE00⟩,
    ⟨"GOTO", 0x5000, 0xF000⟩ ] ++
  (if c.featWrap then [⟨"WRAP", 0x6000, 0xFFFF⟩] else []) ++
  [ ⟨"BRIGHT", 0x7000, 0xFF00⟩ ]

/-- What the host does for one line of its program (30_encoding.md rules R71 and R72). -/
def AsmLine.toHost (c : Cfg) : AsmLine → HostAct
  | .delay k => .delay k
  | .op i => .op (encode i)
  | .cmd b => .op (encode (.xfer false b))
  | .putc b => .op (encode (.xfer true b))
  | .clear => .op (encode (.xfer false c.cmdClear))
  | .home => .op (encode (.xfer false c.cmdHome))

/-- The well-formedness check of a line of a host program (30_encoding.md rule R66): its operation exists under
`cfg`. A `DELAY` is no word, so nothing of it is reserved; its text form takes `k = 0 .. 9` only (rule R72). -/
def AsmLine.check (c : Cfg) (l : AsmLine) : Option Reserved :=
  match l.instr? c with
  | some i => i.reserved? c
  | none => none

/-- A whole host program assembled, or the first line that is refused (30_encoding.md rule R66). -/
def assemble (c : Cfg) : List AsmLine → Except Reserved (List HostAct)
  | [] => .ok []
  | l :: rest =>
    match l.check c with
    | some r => .error r
    | none =>
      match assemble c rest with
      | .ok acts => .ok (l.toHost c :: acts)
      | .error r => .error r

/-! The assembler's text form (30_encoding.md rule R71): capitals, operands separated by commas, decimal or `0x`
numbers or a character in single quotes, a comment from `;` on. -/

/-- A line up to its comment; a quoted character is no comment. -/
def dropComment : List Char → List Char
  | '\'' :: x :: '\'' :: r => '\'' :: x :: '\'' :: dropComment r
  | ';' :: _ => []
  | x :: r => x :: dropComment r
  | [] => []

/-- The operands of a line, cut at its commas; a quoted comma cuts nothing. -/
def splitOperands : List Char → List (List Char)
  | '\'' :: x :: '\'' :: r =>
    match splitOperands r with
    | o :: os => ('\'' :: x :: '\'' :: o) :: os
    | [] => [['\'', x, '\'']]
  | ',' :: r => [] :: splitOperands r
  | x :: r =>
    match splitOperands r with
    | o :: os => (x :: o) :: os
    | [] => [[x]]
  | [] => [[]]

/-- The value of one digit in base 16. -/
def digit? (x : Char) : Option Nat :=
  if '0' ≤ x ∧ x ≤ '9' then some (x.toNat - 48)
  else if 'A' ≤ x ∧ x ≤ 'F' then some (x.toNat - 55)
  else if 'a' ≤ x ∧ x ≤ 'f' then some (x.toNat - 87)
  else none

/-- The value of a run of digits, the digits read so far being worth `acc`. -/
def digits? (base acc : Nat) : List Char → Option Nat
  | [] => some acc
  | x :: r =>
    match digit? x with
    | some v => if v < base then digits? base (acc * base + v) r else none
    | none => none

/-- A number (30_encoding.md rule R71): decimal, `0x` hexadecimal, or a character's 8-bit code. The code of a
character is taken to be its Unicode code point, which is ASCII where ASCII has the character; which 8-bit code a
character outside ASCII has, the spec does not say. DESIGN CHOICE (notes/assumptions/19.md). -/
def number? : List Char → Option Nat
  | ['\'', x, '\''] => some x.toNat
  | '0' :: 'x' :: x :: r => digits? 16 0 (x :: r)
  | x :: r => digits? 10 0 (x :: r)
  | [] => none

/-- Characters without the spaces around them. -/
def trimSpaces (cs : List Char) : List Char :=
  ((cs.dropWhile (· == ' ')).reverse.dropWhile (· == ' ')).reverse

/-- An operand of `n` bits. -/
def operand? (n : Nat) (cs : List Char) : Option (BitVec n) :=
  match number? (trimSpaces cs) with
  | some v => if v < 2 ^ n then some (BitVec.ofNat n v) else none
  | none => none

/-- An `rs` operand and a byte. -/
def transferOperands? (a b : List Char) (f : Bool → Byte → Instr) : Option AsmLine :=
  match operand? 1 a, operand? 8 b with
  | some r, some v => some (.op (f (r == 1) v))
  | _, _ => none

/-- The line a mnemonic and its operands spell (30_encoding.md rules R71 and R72). -/
def parseOp (m : List Char) (args : List (List Char)) : Option AsmLine :=
  match String.ofList m, args with
  | "WAITRDY", [] => some (.op .waitrdy)
  | "WRAP", [] => some (.op .wrap)
  | "WRN", [a, b] => transferOperands? a b .wrn
  | "XFERRAW", [a, b] => transferOperands? a b .xferraw
  | "XFER", [a, b] => transferOperands? a b .xfer
  | "GOTO", [a, b] =>
    match operand? 8 a, operand? 4 b with
    | some col, some row => some (.op (.goto col row))
    | _, _ => none
  | "BRIGHT", [a] => (operand? 8 a).map fun v => .op (.bright v)
  | "CMD", [a] => (operand? 8 a).map .cmd
  | "PUTC", [a] => (operand? 8 a).map .putc
  | "CLEAR", [] => some .clear
  | "HOME", [] => some .home
  | "DELAY", [a] =>
    match operand? 8 a with
    | some v => if v.toNat ≤ 9 then some (.delay v.toNat) else none
    | none => none
  | _, _ => none

/-- One line of assembler text: `none` where it is no line, `some none` where it is blank or a comment. -/
def parseLine (text : List Char) : Option (Option AsmLine) :=
  let body := (dropComment text).dropWhile (· == ' ')
  let m := body.takeWhile (fun x => x ≠ ' ')
  let rest := (body.dropWhile (fun x => x ≠ ' ')).dropWhile (· == ' ')
  if m = [] then some none
  else (parseOp m (if rest = [] then [] else splitOperands rest)).map some

end Sys2Proof
end

