-- ==== Sys2Proof/Machine/State.lean ====
section
/-! DEFINITION. The state of the block as plain data (10_state.md), the environment it acts in (host and
controller), why a step can stop, and the state after reset (rule R36). -/

namespace Sys2Proof.Machine

/-- `DIR`, the direction of all data lines together (10_state.md rule R22). -/
inductive Dir
  | input
  | output
  deriving DecidableEq, Repr

/-- A logical level of the backlight pin (00_scope.md rule R12). -/
inductive Level
  | on
  | off
  deriving DecidableEq, Repr

/-- A bus event, one strobe (10_state.md rule R33). -/
inductive Event
  /-- `W(rs, u)`: a write strobe that presented unit `u` -/
  | wr (rs : Bool) (u : Byte)
  /-- `Rd(rs, u)`: a read strobe during which the block sampled `u` -/
  | rd (rs : Bool) (u : Byte)
  deriving DecidableEq, Repr

/-- One micro-step of an operation's pseudocode (10_state.md rule R18): one line of it that writes a register,
samples, emits or tests. How finely a line is cut, hence what number a place has, is the model's choice
(notes/assumptions/4.md). -/
inductive Micro
  /-- `DIR <- v` -/
  | setDir (v : Dir)
  /-- `RS <- v` -/
  | setRs (v : Bool)
  /-- `RW <- v` -/
  | setRw (v : Bool)
  /-- `E <- v` -/
  | setE (v : Bool)
  /-- `D <- u` -/
  | loadD (u : Byte)
  /-- `emit(W(RS, D))`: the unit and the register-select the lines carry -/
  | emitWrite
  /-- `u <- Sample()` -/
  | sample
  /-- `emit(Rd(RS, u))` -/
  | emitRead
  /-- `h <- u` -/
  | keepHigh
  /-- `STAT <- u` -/
  | statWide
  /-- `STAT <- h ++ u` -/
  | statNarrow
  /-- `until STAT[7] = 0`: go `back` micro-steps back while `STAT[7] = 1` -/
  | loop (back : Nat)
  /-- `if CUR_COL > N and CUR_ROW < R`: go on, or end the operation -/
  | wrapTest
  /-- `CUR_COL <- (CUR_COL + 1) mod 256` -/
  | incCol
  /-- `CUR_COL <- v` -/
  | setCol (v : BitVec 8)
  /-- `CUR_ROW <- v` -/
  | setRow (v : BitVec 4)
  /-- `PWM_EN <- v` -/
  | setPwmEn (v : Bool)
  /-- `PWM_CMP <- v` -/
  | setPwmCmp (v : Nat)
  /-- `BL <- v` -/
  | setBl (v : Level)
  deriving DecidableEq, Repr

/-- `SEQ` (10_state.md rule R18). `op` is the accepted operation, `k` counts the micro-steps of its pseudocode
already done; the poll loop moves it back. -/
inductive Seq
  | idle
  | run (op : Instr) (k : Nat)
  deriving DecidableEq, Repr

/-- The block with its configuration and its environment. A 1-bit register is a Bool, true being 1.
`BUSY` is not stored: it is `SEQ != Idle` (rule R20). `CNT` is not stored: it is a free value at every step
(rule R31). -/
@[ext]
structure State where
  /-- `cfg`, which no step writes (rule R13) -/
  cfg : Cfg
  /-- `CUR_COL` (rule R14) -/
  curCol : BitVec 8
  /-- `CUR_ROW` (rule R14) -/
  curRow : BitVec 4
  /-- `STAT` (rule R16) -/
  stat : Byte
  /-- `SEQ` (rule R18) -/
  seq : Seq
  /-- `DIR` (rule R22) -/
  dir : Dir
  /-- `D` (rule R23), `W` bits -/
  d : Byte
  /-- `RS` (rule R24): 0 = command, 1 = data -/
  rs : Bool
  /-- `RW` (rule R25): 0 = write, 1 = read -/
  rw : Bool
  /-- `E` (rule R26): 1 = active -/
  e : Bool
  /-- `PWM_EN` (rule R28) -/
  pwmEn : Bool
  /-- `PWM_CMP` (rule R29), `0 .. PWM_TOP` -/
  pwmCmp : Nat
  /-- `BL` (rule R30) -/
  bl : Level
  /-- the bus trace, oldest event first (rule R33) -/
  trace : List Event
  /-- the local `u` of `ReadUnit` (41_busy_flag_sync.md rule R88), between micro-steps -/
  smp : Byte
  /-- the local `h` of `ReadStatus` (rule R89), between micro-steps -/
  smpHigh : Byte
  /-- what the controller drives at its next samples, soonest first; after these, `Config.freeSample` -/
  answers : List Byte
  /-- how many samples have been taken: the free sample's number -/
  draws : Nat
  /-- what the host does next, soonest first -/
  host : List HostAct
  /-- how many steps have been taken: the free count's number -/
  clock : Nat
  deriving DecidableEq, Repr

/-- Why the machine stops with a fault. The block itself raises none (60_exceptions.md rule R121). -/
inductive Fault
  /-- `SEQ` names an operation and a place no run leads to, so there is nothing to go on with. Raised by
  `resume` only, in states outside `Safety.Inv`. Safe. -/
  | sequencerLost
  deriving DecidableEq, Repr

/-- Why the model gives no meaning (00_scope.md rule R12, `refuse`; 60_exceptions.md rule R125). -/
inductive Refusal
  /-- an arm of exec that has no meaning yet. Safe. -/
  | notModelled (mnemonic : String)
  /-- `refuse(reserved_encoding)`: raised by `present`, and by the meanings of WRN and WRAP, for a word
  30_encoding.md rule R66 calls reserved. Safe. -/
  | reservedEncoding (why : Reserved)
  /-- `refuse(op_while_busy)`: raised by `present` and by every meaning when `BUSY = 1` (10_state.md rule
  R20). Safe. -/
  | opWhileBusy
  /-- `refuse(configuration_mismatch)`: raised by the meaning of GOTO for a cell outside the geometry
  (42_ddram_address.md rule R102). Safe. -/
  | configurationMismatch
  deriving DecidableEq, Repr

/-- A block after reset under `c` (10_state.md rule R36), nothing yet asked of it, no answer scripted. The two
locals are zero (notes/assumptions/3.md). -/
def State.resetWith (c : Cfg) : State where
  cfg := c
  curCol := 1
  curRow := 1
  stat := 0x00
  seq := .idle
  dir := .output
  d := 0
  rs := false
  rw := false
  e := false
  pwmEn := false
  pwmCmp := 0
  bl := .off
  trace := []
  smp := 0
  smpHigh := 0
  answers := []
  draws := 0
  host := []
  clock := 0

/-- The machine right after reset (10_state.md rule R36), for the configuration `Cfg.default`. -/
def State.reset : State := State.resetWith Cfg.default

end Sys2Proof.Machine
end

