-- ==== Sys2Proof/Machine/Operands.lean ====
section
/-! DEFINITION. The operand forms: units and nibbles (20_memory.md rules R44 to R46), the DDRAM address decoder
(42_ddram_address.md rules R96 to R99), the command byte it makes (30_encoding.md rule R64), the compare value
(43_pwm_backlight.md rule R110). -/

namespace Sys2Proof.Machine

/-- `v[7:4]`. -/
def highNibble (v : Byte) : Byte := v >>> 4

/-- `v[3:0]`. -/
def lowNibble (v : Byte) : Byte := v &&& 0x0F

/-- `h ++ l`, two nibbles. -/
def joinNibbles (h l : Byte) : Byte := (h <<< 4) ||| l

/-- The units that carry a byte, first to last (20_memory.md rule R44): "high first" on a narrow bus. -/
def unitsOf (w : BusWidth) (v : Byte) : List Byte :=
  match w with
  | .w8 => [v]
  | .w4 => [highNibble v, lowNibble v]

/-- What `W` data lines carry of eight bits (20_memory.md rule R45). -/
def toUnit (w : BusWidth) (v : Byte) : Byte :=
  match w with
  | .w8 => v
  | .w4 => lowNibble v

/-- `colnorm(col)` (42_ddram_address.md rule R98). -/
def colNorm (col : BitVec 8) : BitVec 8 := if col = 0 then 1 else col

/-- `ROW2_OFF` (00_scope.md rule R8), "a fixed 64-address offset". -/
def row2Off : Nat := 64

/-- `rowoff(row)` for `N = n` (42_ddram_address.md rule R97); defined for rows 1 to 4. -/
def rowOff (n : Nat) : Nat → Option Nat
  | 1 => some 0
  | 2 => some row2Off
  | 3 => some n
  | 4 => some (row2Off + n)
  | _ => none

/-- The domain of the decoder (42_ddram_address.md rule R96): `1 <= row <= R` and `0 <= col <= N`. -/
def inDomain (c : Cfg) (col : BitVec 8) (row : BitVec 4) : Bool :=
  1 ≤ row.toNat && row.toNat ≤ c.rows && col.toNat ≤ c.cols

/-- `addr(col, row)` (42_ddram_address.md rule R99), summed without truncation; none outside the domain. -/
def addr (c : Cfg) (col : BitVec 8) (row : BitVec 4) : Option Nat :=
  if inDomain c col row then (rowOff c.cols row.toNat).map fun o => o + ((colNorm col).toNat - 1) else none

/-- The set-DDRAM-address command byte, `SET_DDRAM | a` (30_encoding.md rule R64). -/
def setAddressByte (c : Cfg) (a : Nat) : Byte := c.setDdram ||| BitVec.ofNat 8 a

/-- `duty(pct)` (43_pwm_backlight.md rule R110), in unbounded integers. -/
def duty (top pct : Nat) : Nat := (top * pct + 99) / 100

end Sys2Proof.Machine
end

