-- ==== Sys2Proof/Machine/Flags.lean ====
section
/-! DEFINITION. The flags and the derived outputs: `BUSY` and the busy flag (10_state.md rules R19 and R20),
the host-visible outputs (rule R35), the PWM counter and the backlight pin (rule R31, 43_pwm_backlight.md rule
R115), the data lines (rules R22 and R23), the cursor's range (42_ddram_address.md rule R108). No operation
computes any other flag (rule R20). -/

namespace Sys2Proof.Machine

/-- `BUSY` (10_state.md rule R20). -/
def State.busy (s : State) : Bool := s.seq != .idle

/-- The controller's busy flag as last sampled, `STAT[7]` (10_state.md rules R16 and R19). -/
def State.busyFlag (s : State) : Bool := s.stat.msb

/-- What the host reads at the port, without an operation and without side effect (10_state.md rule R35):
`BUSY`, `CUR_COL`, `CUR_ROW`. -/
def State.hostView (s : State) : Bool × BitVec 8 × BitVec 4 := (s.busy, s.curCol, s.curRow)

/-- What the block drives on the data lines (10_state.md rules R22 and R23): `D`, or nothing while `DIR = in`. -/
def State.dataLines (s : State) : Option Byte :=
  match s.dir with
  | .output => some s.d
  | .input => none

/-- `CNT` (10_state.md rule R31): a free value in `0 .. PWM_TOP`, another at every step. -/
def State.cnt (s : State) : Nat := Config.freeCount s.clock % (s.cfg.pwmTop + 1)

/-- The logical level of the backlight pin (43_pwm_backlight.md rule R115). -/
def State.pinLevel (s : State) : Level :=
  if s.pwmEn then (if s.cnt < s.pwmCmp then .on else .off) else s.bl

/-- The electrical level of the backlight pin: `BL_ON_LEVEL` for `on`, its complement for `off` (00_scope.md
rule R9). -/
def State.pinElectrical (s : State) : Bool :=
  match s.pinLevel with
  | .on => s.cfg.blOnLevel
  | .off => !s.cfg.blOnLevel

/-- `cursor_in_range` (42_ddram_address.md rule R108). -/
def State.cursorInRange (s : State) : Bool := 1 ≤ s.curCol.toNat && s.curCol.toNat ≤ s.cfg.cols

/-- The condition of WRAP (42_ddram_address.md rule R104): past the row's end, and a next row exists. -/
def State.wrapMoves (s : State) : Bool := s.cfg.cols < s.curCol.toNat && s.curRow.toNat < s.cfg.rows

end Sys2Proof.Machine
end

