-- ==== Sys2Proof/Machine/Ops.lean ====
section
/-! DEFINITION. The named operations every meaning is made of: what each micro-step does, the primitives of the
transport engine and of the synchronizer as micro-steps (40_bus_transport.md rules R75 to R78,
41_busy_flag_sync.md rules R88 to R90), the sequencer that runs them (10_state.md rule R18), and reset. There is
no operation for taking an exception or returning from one: "The block raises no synchronous exception"
(60_exceptions.md rule R121), "Trap entry does not exist" (rule R128). -/

namespace Sys2Proof.Machine

/-- `Sample()` (41_busy_flag_sync.md rule R88): what the `W` data lines carry, an oracle answer. -/
def State.sampleUnit (s : State) : Byte :=
  toUnit s.cfg.width (s.answers.headD (Config.freeSample s.draws))

/-- The environment after one sample. -/
def State.drawn (s : State) : State := { s with answers := s.answers.tail, draws := s.draws + 1 }

/-- What one micro-step does to the registers and the trace. -/
def Micro.apply (m : Micro) (s : State) : State :=
  match m with
  | .setDir v => { s with dir := v }
  | .setRs v => { s with rs := v }
  | .setRw v => { s with rw := v }
  | .setE v => { s with e := v }
  | .loadD u => { s with d := u }
  | .emitWrite => { s with trace := s.trace ++ [.wr s.rs s.d] }
  | .sample => { s.drawn with smp := s.sampleUnit }
  | .emitRead => { s with trace := s.trace ++ [.rd s.rs s.smp] }
  | .keepHigh => { s with smpHigh := s.smp }
  | .statWide => { s with stat := s.smp }
  | .statNarrow => { s with stat := joinNibbles s.smpHigh s.smp }
  | .loop _ => s
  | .wrapTest => s
  | .incCol => { s with curCol := s.curCol + 1 }
  | .setCol v => { s with curCol := v }
  | .setRow v => { s with curRow := v }
  | .setPwmEn v => { s with pwmEn := v }
  | .setPwmCmp v => { s with pwmCmp := v }
  | .setBl v => { s with bl := v }

/-- `Strobe()` (40_bus_transport.md rule R75). Holding `E` for `T_EPW` changes no state (rule R157). -/
def strobe : List Micro := [.setE true, .setE false]

/-- `WriteUnit(rs, u)` (40_bus_transport.md rule R76). -/
def writeUnit (rs : Bool) (u : Byte) : List Micro :=
  [.setRs rs, .loadD u] ++ strobe ++ [.emitWrite]

/-- `WriteByte(rs, v)` (40_bus_transport.md rule R77). -/
def writeByte (w : BusWidth) (rs : Bool) (v : Byte) : List Micro :=
  match w with
  | .w4 => writeUnit rs (highNibble v) ++ writeUnit rs (lowNibble v) ++ [.loadD 0]
  | .w8 => writeUnit rs v ++ [.loadD 0]

/-- `CursorEffect(rs, v)` (40_bus_transport.md rule R78; the comparison is of all 8 bits, 30_encoding.md rule
R67). -/
def cursorEffect (c : Cfg) (rs : Bool) (v : Byte) : List Micro :=
  if rs then [.incCol]
  else if v = c.cmdClear ∨ v = c.cmdHome then [.setCol 1, .setRow 1]
  else []

/-- `ReadUnit()` (41_busy_flag_sync.md rule R88): the sample is taken while `E` is active. -/
def readUnit : List Micro := [.setE true, .sample, .setE false, .emitRead]

/-- `ReadStatus()` (41_busy_flag_sync.md rule R89). -/
def readStatus : BusWidth → List Micro
  | .w8 => readUnit ++ [.statWide]
  | .w4 => readUnit ++ [.keepHigh] ++ readUnit ++ [.statNarrow]

/-- The body of WAITRDY (41_busy_flag_sync.md rule R90). -/
def waitReady (w : BusWidth) : List Micro :=
  [.setDir .input, .setRs false, .setRw true] ++ readStatus w ++ [.loop (readStatus w).length] ++
    [.setRw false, .setDir .output]

/-- The body of XFERRAW (40_bus_transport.md rule R80). -/
def transferRaw (c : Cfg) (rs : Bool) (v : Byte) : List Micro :=
  writeByte c.width rs v ++ cursorEffect c rs v

/-- The body of XFER (40_bus_transport.md rule R81): exactly one synchronizer run, then the transfer. -/
def transfer (c : Cfg) (rs : Bool) (v : Byte) : List Micro :=
  waitReady c.width ++ transferRaw c rs v

/-- Run the micro-steps `p`, the first of which is number `k` of operation `op`, to the end of the operation
(which WRAP's test can bring about at once), or until the poll loop goes round: then `SEQ` stands at the loop's start, the block is still busy, and the next
step polls again (10_state.md rule R18; 41_busy_flag_sync.md rule R93: "an infinite execution, never a final
state"). -/
def runFrom (op : Instr) : Nat → List Micro → State → State
  | _, [], s => { s with seq := .idle }
  | k, .loop back :: p, s =>
    if s.busyFlag then { s with seq := .run op (k - back) } else runFrom op (k + 1) p s
  | k, .wrapTest :: p, s => if s.wrapMoves then runFrom op (k + 1) p s else { s with seq := .idle }
  | k, m :: p, s => runFrom op (k + 1) p (m.apply s)

/-- Accept an operation at `SEQ = Idle` and run it from its first micro-step. While `BUSY = 1` no operation is
accepted (10_state.md rule R20). -/
def operate (op : Instr) (p : List Micro) (s : State) : Host.Outcome State Fault Refusal :=
  if s.busy then .refused .opWhileBusy else .next (runFrom op 0 p s)

/-- Reset of the block (70_reset_and_hazards.md rules R136 to R138): every register at its reset value, the
trace empty; the configuration, the controller's answers to come and the host's plans are not the block's. -/
def blockReset (s : State) : State :=
  { State.resetWith s.cfg with
    answers := s.answers, draws := s.draws, host := s.host, clock := s.clock }

end Sys2Proof.Machine
end

