-- ==== Sys2Proof/Machine/Address.lean ====
section
/-! DEFINITION. The address decoder's two operations: GOTO and WRAP (42_ddram_address.md rules R101 to R106). -/

namespace Sys2Proof.Machine

/-- The pseudocode of GOTO (42_ddram_address.md rule R101); none outside the decoder's domain (rule R102). -/
def gotoCode (c : Cfg) (col : BitVec 8) (row : BitVec 4) : Option (List Micro) :=
  (addr c col row).map fun a =>
    transfer c false (setAddressByte c a) ++ [.setCol (colNorm col), .setRow row]

/-- GOTO (42_ddram_address.md rule R101). Outside the geometry: `refuse(configuration_mismatch)` (rule R102). -/
def execGoto (col : BitVec 8) (row : BitVec 4) (s : State) : Host.Outcome State Fault Refusal :=
  match gotoCode s.cfg col row with
  | some p => operate (.goto col row) p s
  | none => .refused .configurationMismatch

/-- The pseudocode of WRAP for `CUR_ROW = row` (42_ddram_address.md rule R104): the test, then
`GOTO(1, row + 1)`, whose last line is under a legal `cfg` the only one to write `CUR_ROW`
(notes/assumptions/5.md). -/
def wrapCode (c : Cfg) (row : BitVec 4) : List Micro := .wrapTest :: (gotoCode c 1 (row + 1)).getD []

/-- WRAP (42_ddram_address.md rule R104). Without `FEAT_WRAP` its word is a reserved encoding (30_encoding.md
rule R66). Under a legal geometry the cell of a WRAP that moves is always in it. -/
def execWrap (s : State) : Host.Outcome State Fault Refusal :=
  if s.cfg.featWrap then
    if s.wrapMoves && (addr s.cfg 1 (s.curRow + 1)).isNone then .refused .configurationMismatch
    else operate .wrap (wrapCode s.cfg s.curRow) s
  else .refused (.reservedEncoding .noWrap)

end Sys2Proof.Machine
end

