-- ==== Sys2Proof/Machine/Dimmer.lean ====
section
/-! DEFINITION. The PWM backlight dimmer: BRIGHT (43_pwm_backlight.md rules R111 to R114). -/

namespace Sys2Proof.Machine

/-- The pseudocode of BRIGHT (43_pwm_backlight.md rule R111). -/
def brightCode (c : Cfg) (pct : BitVec 8) : List Micro :=
  if 100 ≤ pct.toNat then
    [.setPwmEn false, .setPwmCmp c.pwmTop, .setBl .on] ++ transfer c false c.cmdDisplayOn
  else if pct.toNat < 1 then
    [.setPwmEn false, .setPwmCmp 0, .setBl .off] ++ transfer c false c.cmdDisplayOff
  else
    [.setPwmCmp (duty c.pwmTop pct.toNat), .setPwmEn true]

/-- BRIGHT (43_pwm_backlight.md rule R111). -/
def execBright (pct : BitVec 8) (s : State) : Host.Outcome State Fault Refusal :=
  operate (.bright pct) (brightCode s.cfg pct) s

end Sys2Proof.Machine
end

