-- ==== Sys2Proof/Machine/Sync.lean ====
section
/-! DEFINITION. The busy-flag synchronizer: WAITRDY (41_busy_flag_sync.md rule R90). -/

namespace Sys2Proof.Machine

/-- WAITRDY (41_busy_flag_sync.md rule R90). -/
def execWaitrdy (s : State) : Host.Outcome State Fault Refusal :=
  operate .waitrdy (waitReady s.cfg.width) s

end Sys2Proof.Machine
end

