-- ==== Sys2Proof/Machine/Transport.lean ====
section
/-! DEFINITION. The bus-transport engine: WRN, XFERRAW, XFER (40_bus_transport.md rules R79 to R81). -/

namespace Sys2Proof.Machine

/-- The pseudocode of WRN (40_bus_transport.md rule R79): one unit, no poll, no cursor effect. -/
def wrnCode (rs : Bool) (u : Byte) : List Micro := writeUnit rs u ++ [.loadD 0]

/-- WRN (40_bus_transport.md rule R79). A unit wider than the bus is a reserved encoding (30_encoding.md rules
R63 and R66). -/
def execWrn (rs : Bool) (u : Byte) (s : State) : Host.Outcome State Fault Refusal :=
  if fitsBus s.cfg.width u then operate (.wrn rs u) (wrnCode rs u) s
  else .refused (.reservedEncoding .wideUnit)

/-- XFERRAW (40_bus_transport.md rule R80). -/
def execXferraw (rs : Bool) (v : Byte) (s : State) : Host.Outcome State Fault Refusal :=
  operate (.xferraw rs v) (transferRaw s.cfg rs v) s

/-- XFER (40_bus_transport.md rule R81). -/
def execXfer (rs : Bool) (v : Byte) (s : State) : Host.Outcome State Fault Refusal :=
  operate (.xfer rs v) (transfer s.cfg rs v) s

end Sys2Proof.Machine
end

