-- ==== Sys2Proof/Machine/Dispatch.lean ====
section
/-! DEFINITION. One arm per operation: its meaning. -/

namespace Sys2Proof.Machine

def exec (i : Instr) (s : State) : Host.Outcome State Fault Refusal :=
  match i with
  | .waitrdy => Sys2Proof.Machine.execWaitrdy s
  | .wrn rs u => Sys2Proof.Machine.execWrn rs u s
  | .xferraw rs v => Sys2Proof.Machine.execXferraw rs v s
  | .xfer rs v => Sys2Proof.Machine.execXfer rs v s
  | .goto col row => Sys2Proof.Machine.execGoto col row s
  | .wrap => Sys2Proof.Machine.execWrap s
  | .bright pct => Sys2Proof.Machine.execBright pct s

end Sys2Proof.Machine
end

