-- ==== Sys2Proof/Machine/Sequencer.lean ====
section
/-! DEFINITION. The sequencer between the steps: which pseudocode an operation runs, how a waiting operation goes
on, and the same machine one micro-step at a time (10_state.md rule R18). -/

namespace Sys2Proof.Machine

/-- The pseudocode of an operation as micro-steps; none for an operation the block cannot run under its `cfg`.
Only WRAP's depends on a register, `CUR_ROW`, which under a legal `cfg` its last micro-step alone writes. -/
def program (s : State) : Instr → Option (List Micro)
  | .waitrdy => some (waitReady s.cfg.width)
  | .wrn rs u => some (wrnCode rs u)
  | .xferraw rs v => some (transferRaw s.cfg rs v)
  | .xfer rs v => some (transfer s.cfg rs v)
  | .goto col row => gotoCode s.cfg col row
  | .wrap => if s.cfg.featWrap then some (wrapCode s.cfg s.curRow) else none
  | .bright pct => some (brightCode s.cfg pct)

/-- Go on with the operation in `SEQ`: one more poll, and the rest of the operation once the controller is
ready (41_busy_flag_sync.md rules R90 and R93). -/
def resume (s : State) : Host.Outcome State Fault Refusal :=
  match s.seq with
  | .idle => .next s
  | .run op k =>
    match program s op with
    | some p => .next (runFrom op k (p.drop k) s)
    | none => .fault .sequencerLost

/-- One micro-step (10_state.md rule R18): `Run(op, k) -> Run(op, k + 1)`, the poll loop's backward move, or
`Run(op, k) -> Idle` after the last (WRAP's test is the last where it does not move). -/
def microStep (s : State) : State :=
  match s.seq with
  | .idle => s
  | .run op k =>
    match program s op with
    | none => s
    | some p =>
      match p[k]? with
      | none => { s with seq := .idle }
      | some (.loop back) =>
        if s.busyFlag then { s with seq := .run op (k - back) } else { s with seq := .run op (k + 1) }
      | some .wrapTest => if s.wrapMoves then { s with seq := .run op (k + 1) } else { s with seq := .idle }
      | some m => { m.apply s with seq := .run op (k + 1) }

/-- `n` micro-steps. -/
def microSteps : Nat → State → State
  | 0, s => s
  | n + 1, s => microSteps n (microStep s)

/-- `Idle -> Run(op, 0)` (10_state.md rule R18). -/
def accepted (op : Instr) (s : State) : State := { s with seq := .run op 0 }

end Sys2Proof.Machine
end

