-- ==== Sys2Proof/Machine/Port.lean ====
section
/-! DEFINITION. The operation port (10_state.md rules R17 and R20, 20_memory.md rule R43): how the host's next
act meets the block. -/

namespace Sys2Proof.Machine

/-- A word presented to the block (10_state.md rules R18 and R20, 30_encoding.md rule R66). -/
def present (w : OpWord) (s : State) : Host.Outcome State Fault Refusal :=
  if s.busy then .refused .opWhileBusy
  else
    match decode s.cfg w with
    | .ok i => exec i s
    | .error r => .refused (.reservedEncoding r)

/-- What happens next at the port. A reset happens at once, in a hang too (60_exceptions.md rule R129). A
conforming host presents its next word, or begins its next delay, when `BUSY = 0`
(70_reset_and_hazards.md rule R147); until then the operation goes on. With nothing presented the idle block
does nothing (rule R137). -/
def serve (s : State) : Host.Outcome State Fault Refusal :=
  match s.host with
  | [] => if s.busy then resume s else .next s
  | .reset :: rest => .next (blockReset { s with host := rest })
  | .opNow w :: rest => present w { s with host := rest }
  | .op w :: rest => if s.busy then resume s else present w { s with host := rest }
  | .delay _ :: rest => if s.busy then resume s else .next { s with host := rest }

/-- The free-running PWM counter has moved on (10_state.md rule R31). -/
def State.tick (s : State) : State := { s with clock := s.clock + 1 }

/-- One step: what the port does, then the passing of time. -/
def serveAndTick (s : State) : Host.Outcome State Fault Refusal :=
  match serve s with
  | .next t => .next t.tick
  | .fault f => .fault f
  | .refused r => .refused r

/-- The host with a word of `nbits` bits as the very next act, the block ready for it. -/
def presentNext (nbits w : Nat) (s : State) : State :=
  { s with seq := .idle, host := .op (BitVec.ofNat 16 (w % 2 ^ nbits)) :: s.host }

end Sys2Proof.Machine
end

