-- ==== Sys2Proof/Machine/Step.lean ====
section
/-! DEFINITION. One step of the machine, and how a word comes to be its next operation. -/

namespace Sys2Proof.Machine

/-- One step (10_state.md rule R18): the operation the host presents, run to its end or to its first poll that
answers busy; or one more poll of an operation that waits. -/
def step (s : State) : Host.Outcome State Fault Refusal := serveAndTick s

/-- `s` with the word as the next the host presents. A program is loaded from outside the machine, as the list
of the host's acts: the block has no instruction memory (10_state.md rule R17). -/
def State.withFetchWord (s : State) (nbits w : Nat) : State := presentNext nbits w s

/-- `n` steps, stopping at the first fault or refusal. -/
def steps : Nat → State → Host.Outcome State Fault Refusal
  | 0, s => .next s
  | n + 1, s =>
    match step s with
    | .next t => steps n t
    | .fault f => .fault f
    | .refused r => .refused r

end Sys2Proof.Machine
end

