-- ==== Sys2Proof/Safety.lean ====
section
/-! DEFINITION. The terms claims use: what a poll, a transfer and a completed operation leave, written without
the sequencer; the invariant of the machine; the discipline of the lines; what the host owes
(70_reset_and_hazards.md rules R139 to R154); a controller as an assumption a claim may take by name
(10_state.md rules R32 and R34, 20_memory.md rule R41). -/

namespace Sys2Proof.Machine

/-! ## What the parts of an operation leave -/

/-- The status byte the next poll reads (20_memory.md rule R46). -/
def State.nextStatus (s : State) : Byte :=
  match s.cfg.width with
  | .w8 => s.sampleUnit
  | .w4 => joinNibbles s.sampleUnit s.drawn.sampleUnit

/-- The next poll answers busy. -/
def State.answersBusy (s : State) : Bool := s.nextStatus.msb

/-- What one poll leaves besides the lines: `STAT`, the locals, the trace, the answers used up
(41_busy_flag_sync.md rule R89). -/
def State.polled (s : State) : State :=
  { s with
    stat := s.nextStatus
    smp := toUnit s.cfg.width s.nextStatus
    smpHigh := match s.cfg.width with
      | .w8 => s.smpHigh
      | .w4 => highNibble s.nextStatus
    trace := s.trace ++ (unitsOf s.cfg.width s.nextStatus).map (Event.rd false)
    answers := s.answers.drop s.cfg.width.unitsPerByte
    draws := s.draws + s.cfg.width.unitsPerByte }

/-- One poll that answered busy: the block waits at micro-step `k` of `op` (41_busy_flag_sync.md rule R93). -/
def State.waiting (op : Instr) (k : Nat) (s : State) : State :=
  { s.polled with dir := .input, rs := false, rw := true, e := false, seq := .run op k }

/-- The end of WAITRDY after one poll that answered ready (41_busy_flag_sync.md rule R90, post-state). -/
def State.ready (s : State) : State :=
  { s.polled with dir := .output, rs := false, rw := false, e := false }

/-- What `WriteByte(rs, v)` leaves (40_bus_transport.md rule R77). -/
def State.written (rs : Bool) (v : Byte) (s : State) : State :=
  { s with
    rs := rs, e := false, d := 0
    trace := s.trace ++ (unitsOf s.cfg.width v).map (Event.wr rs) }

/-- What `CursorEffect(rs, v)` leaves (40_bus_transport.md rule R78). -/
def State.cursorMoved (rs : Bool) (v : Byte) (s : State) : State :=
  if rs then { s with curCol := s.curCol + 1 }
  else if v = s.cfg.cmdClear ∨ v = s.cfg.cmdHome then { s with curCol := 1, curRow := 1 }
  else s

/-- What XFER leaves when its first poll answers ready (40_bus_transport.md rule R81). -/
def State.transferred (rs : Bool) (v : Byte) (s : State) : State :=
  (s.ready.written rs v).cursorMoved rs v

/-- The display command an edge case of BRIGHT sends (43_pwm_backlight.md rules R112 and R113); none in
between (rule R114). -/
def displayCommand? (c : Cfg) (pct : BitVec 8) : Option Byte :=
  if 100 ≤ pct.toNat then some c.cmdDisplayOn
  else if pct = 0 then some c.cmdDisplayOff
  else none

/-- The backlight registers after `BRIGHT pct` (43_pwm_backlight.md rule R111). -/
def State.backlit (pct : BitVec 8) (s : State) : State :=
  if 100 ≤ pct.toNat then { s with pwmEn := false, pwmCmp := s.cfg.pwmTop, bl := .on }
  else if pct = 0 then { s with pwmEn := false, pwmCmp := 0, bl := .off }
  else { s with pwmEn := true, pwmCmp := (s.cfg.pwmTop * pct.toNat + 99) / 100 }

/-- What GOTO leaves when its poll has answered ready (42_ddram_address.md rule R101). -/
def State.wentTo (col : BitVec 8) (row : BitVec 4) (s : State) : State :=
  { s.ready.written false (setAddressByte s.cfg ((addr s.cfg col row).getD 0)) with
    curCol := colNorm col, curRow := row }

/-- The rest of a waiting operation, from the poll that answers ready to its end (WAITRDY, XFER, GOTO, a WRAP
that moves, and the edge cases of BRIGHT, whose backlight registers are already written). -/
def State.finished (op : Instr) (s : State) : State :=
  match op with
  | .waitrdy => { s.ready with seq := .idle }
  | .xfer rs v => { s.transferred rs v with seq := .idle }
  | .goto col row => { s.wentTo col row with seq := .idle }
  | .wrap => { s.wentTo 1 (s.curRow + 1) with seq := .idle }
  | .bright pct => { s.transferred false ((displayCommand? s.cfg pct).getD 0) with seq := .idle }
  | .wrn _ _ => s
  | .xferraw _ _ => s

/-- The byte a polled operation sends after its last poll, with its register-select; none for WAITRDY
(41_busy_flag_sync.md rule R95). -/
def sentByte? (s : State) : Instr → Option (Bool × Byte)
  | .xfer rs v => some (rs, v)
  | .goto col row => (addr s.cfg col row).map fun a => (false, setAddressByte s.cfg a)
  | .wrap => (addr s.cfg 1 (s.curRow + 1)).map fun a => (false, setAddressByte s.cfg a)
  | .bright pct => (displayCommand? s.cfg pct).map fun v => (false, v)
  | .waitrdy => none
  | .wrn _ _ => none
  | .xferraw _ _ => none

/-- The backlight registers after an operation: only BRIGHT writes them (10_state.md rules R28 to R30). -/
def State.backlitBy (s : State) : Instr → State
  | .bright pct => s.backlit pct
  | .waitrdy => s
  | .wrn _ _ => s
  | .xferraw _ _ => s
  | .xfer _ _ => s
  | .goto _ _ => s
  | .wrap => s

/-- The cursor registers after an operation that has ended, row by row as 42_ddram_address.md rule R107 tables
them, from their values before it. -/
def State.cursorAfter (s : State) : Instr → BitVec 8 × BitVec 4
  | .xferraw true _ => (s.curCol + 1, s.curRow)
  | .xfer true _ => (s.curCol + 1, s.curRow)
  | .xferraw false v =>
    if v = s.cfg.cmdClear ∨ v = s.cfg.cmdHome then (1, 1) else (s.curCol, s.curRow)
  | .xfer false v =>
    if v = s.cfg.cmdClear ∨ v = s.cfg.cmdHome then (1, 1) else (s.curCol, s.curRow)
  | .wrn _ _ => (s.curCol, s.curRow)
  | .goto col row => (if col = 0 then 1 else col, row)
  | .wrap =>
    if s.cfg.cols < s.curCol.toNat ∧ s.curRow.toNat < s.cfg.rows then (1, s.curRow + 1)
    else (s.curCol, s.curRow)
  | .waitrdy => (s.curCol, s.curRow)
  | .bright _ => (s.curCol, s.curRow)

/-! ## The invariant -/

/-- The idle invariant (10_state.md rule R27). -/
def IdleLines (s : State) : Prop := s.e = false ∧ s.rw = false ∧ s.dir = .output ∧ s.d = 0

/-- The lines of a block that waits for the controller (41_busy_flag_sync.md rule R93). -/
def WaitLines (s : State) : Prop :=
  s.dir = .input ∧ s.rw = true ∧ s.rs = false ∧ s.e = false ∧ s.d = 0 ∧ s.stat.msb = true

/-- Where the poll loop of an operation begins, in micro-steps (numbered as notes/assumptions/4.md says); none
where the operation does not poll in this state (60_exceptions.md rule R124) or cannot run. -/
def waitPlace? (s : State) : Instr → Option Nat
  | .waitrdy => some 3
  | .xfer _ _ => some 3
  | .goto col row => if (addr s.cfg col row).isSome then some 3 else none
  | .wrap =>
    if s.cfg.featWrap ∧ s.wrapMoves ∧ (addr s.cfg 1 (s.curRow + 1)).isSome then some 4 else none
  | .bright pct => if 100 ≤ pct.toNat ∨ pct = 0 then some 6 else none
  | .wrn _ _ => none
  | .xferraw _ _ => none

/-- Idle with the idle invariant, or waiting in the poll loop of an operation that polls. -/
def SeqOk (s : State) : Prop :=
  match s.seq with
  | .idle => IdleLines s
  | .run op k => WaitLines s ∧ waitPlace? s op = some k

/-- An event of this bus: a unit of `W` bits, a read only of the status (20_memory.md rule R39). -/
def EventOk (w : BusWidth) : Event → Prop
  | .wr _ u => toUnit w u = u
  | .rd rs u => rs = false ∧ toUnit w u = u

/-- What holds between steps: a legal `cfg` (00_scope.md rules R7 to R10), `SeqOk`, `1 <= CUR_ROW <= R`
(42_ddram_address.md rule R108), `PWM_CMP <= PWM_TOP` (10_state.md rule R29), a trace of this bus. -/
def Inv (s : State) : Prop :=
  s.cfg.WF ∧ SeqOk s ∧ 1 ≤ s.curRow.toNat ∧ s.curRow.toNat ≤ s.cfg.rows ∧ s.pwmCmp ≤ s.cfg.pwmTop ∧
    ∀ ev ∈ s.trace, EventOk s.cfg.width ev

/-! ## The discipline of the lines, at every micro-step -/

/-- `RW = 1` and `DIR = out` never hold together (10_state.md rule R25); a strobe is a write with the lines as
outputs or a read with the lines as inputs (41_busy_flag_sync.md rule R92). -/
def WireOk (s : State) : Prop :=
  (s.rw = true → s.dir = .input) ∧
    (s.e = true → (s.rw = false ∧ s.dir = .output) ∨ (s.rw = true ∧ s.dir = .input ∧ s.rs = false))

/-- The four line registers a strobe must not see change (40_bus_transport.md rule R75). -/
def sameLines (s t : State) : Prop := t.rs = s.rs ∧ t.rw = s.rw ∧ t.dir = s.dir ∧ t.d = s.d

/-! ## What the host owes -/

/-- A host act that neither presents a word while the block is busy nor resets it (70_reset_and_hazards.md rule
R147). -/
def HostAct.conforms : HostAct → Bool
  | .op _ => true
  | .delay _ => true
  | .opNow _ => false
  | .reset => false

/-- What the host does next, if anything, conforms. -/
def State.hostConforms (s : State) : Bool :=
  match s.host with
  | [] => true
  | a :: _ => HostAct.conforms a

/-- The operations that keep the cursor and the controller's pointer together (70_reset_and_hazards.md rules
R148 to R153): no WRN and no XFERRAW, a data byte only inside the row, no command but clear, home and the two
display commands. -/
def Steady (s : State) : Instr → Prop
  | .waitrdy => True
  | .wrn _ _ => False
  | .xferraw _ _ => False
  | .xfer true _ => s.cursorInRange = true
  | .xfer false v =>
    v = s.cfg.cmdClear ∨ v = s.cfg.cmdHome ∨ v = s.cfg.cmdDisplayOn ∨ v = s.cfg.cmdDisplayOff
  | .goto _ _ => True
  | .wrap => True
  | .bright _ => True

/-- What the host does next keeps the pointer and the cursor together: no reset, and, when the block is idle, no
word of an operation that is not `Steady`. -/
def State.hostSteady (s : State) : Prop :=
  match s.host with
  | [] => True
  | .delay _ :: _ => True
  | .reset :: _ => False
  | .op w :: _ => s.seq = .idle → ∀ i, decode s.cfg w = .ok i → Steady s i
  | .opNow w :: _ => s.seq = .idle → ∀ i, decode s.cfg w = .ok i → Steady s i

/-- An operation that waits was `Steady`. -/
def SteadySeq (s : State) : Prop := ∀ op k, s.seq = .run op k → Steady s op

/-- `INIT_FUNCTION` (70_reset_and_hazards.md rule R143): `0x20 | DL << 4 | NL << 3`. -/
def initFunction (c : Cfg) : Byte :=
  0x20 ||| (match c.width with | .w8 => 0x10 | .w4 => 0x00) ||| (if 1 < c.rows then 0x08 else 0x00)

/-- The bytes of the host's boot program, which 92_eei_decisions.md P9 leaves open to override. -/
structure BootBytes where
  /-- the unit of the three legacy-reset strobes -/
  legacyReset : Byte
  /-- the unit that sets a narrow bus -/
  setNarrow : Byte
  /-- the byte that sets a wide bus -/
  setWide : Byte
  /-- `INIT_FUNCTION` -/
  function : Byte
  /-- `INIT_ENTRY` -/
  entry : Byte
  /-- the display control of DisplayOn, which carries the cursor style -/
  displayOn : Byte
  /-- the set-CGRAM-address command, to be or'ed with the offset -/
  setCgram : Byte
  deriving DecidableEq, Repr

/-- The bytes of 70_reset_and_hazards.md rules R141 to R143. They are the spec's decision D24, taken from general
knowledge, not the source's; the model takes them as one instance of `BootBytes` (notes/assumptions/25.md). -/
def BootBytes.default (c : Cfg) : BootBytes where
  legacyReset := 0x3
  setNarrow := 0x2
  setWide := 0x30
  function := initFunction c
  entry := 0x06
  displayOn := c.cmdDisplayOn
  setCgram := 0x40

/-- PF's cursor styles as display-control bytes (70_reset_and_hazards.md rule R143): hidden, blinking block,
underline. The spec's decision D24 too (notes/assumptions/25.md). -/
def cursorStyles : List Byte := [0x0C, 0x0D, 0x0E]

/-- The time-gated chain of boot (70_reset_and_hazards.md rules R139 to R142), sent without a poll. -/
def bootChain (c : Cfg) (b : BootBytes) : List AsmLine :=
  (match c.width with
    | .w4 =>
      [.delay 0, .op (.wrn false b.legacyReset), .delay 1, .op (.wrn false b.legacyReset), .delay 2,
        .op (.wrn false b.legacyReset), .delay 3, .op (.wrn false b.setNarrow), .delay 4]
    | .w8 => [.delay 0, .op (.xferraw false b.setWide), .delay 4]) ++
  [ .op (.xferraw false b.function), .delay 5, .op (.xferraw false c.cmdDisplayOff), .delay 6,
    .op (.xferraw false c.cmdClear), .delay 7, .op (.xferraw false b.entry), .delay 8,
    .op (.xferraw false b.displayOn), .delay 9 ]

/-- One custom glyph, a byte per pixel row (20_memory.md rule R42). -/
abbrev Glyph := Vector Byte 8

/-- The Custom Glyph Table (20_memory.md rule R42): eight slots, each configured or not. -/
abbrev GlyphTable := Vector (Option Glyph) 8

/-- The upload of one glyph into CGRAM slot `slot` (70_reset_and_hazards.md rule R144). -/
def uploadGlyph (b : BootBytes) (slot : Fin 8) (g : Glyph) : List AsmLine :=
  .cmd (b.setCgram ||| BitVec.ofNat 8 (8 * slot)) :: g.toList.map .putc

/-- The actions of the terminal state of boot (70_reset_and_hazards.md rule R144): every configured slot of
`0 .. 7`, the initial backlight, clear, home. -/
def bootTerminal (b : BootBytes) (t : GlyphTable) (pct : BitVec 8) : List AsmLine :=
  ((List.finRange 8).flatMap fun slot =>
    match t[slot] with
    | some g => uploadGlyph b slot g
    | none => []) ++ [.op (.bright pct), .clear, .home]

/-! ## A controller, as an assumption -/

/-- The controller as far as its DDRAM pointer goes: the pointer where it is known, and, on a narrow bus, the
first nibble of a byte still to come (10_state.md rule R32). Outside the block: a claim that speaks of it
assumes it by name. -/
structure Lcd where
  ac : Option Nat
  half : Option Byte
  deriving DecidableEq, Repr

/-- The address and the next one are cells of one row. Everywhere else the spec does not say where a data write
moves the pointer (91_not_in_source.md N9, 93_implementation_defined.md U8). -/
def rowGoesOn (c : Cfg) (a : Nat) : Bool :=
  [1, 2, 3, 4].any fun r => r ≤ c.rows && (rowOff c.cols r).any fun o => o ≤ a && a + 1 < o + c.cols

/-- What a byte does to the pointer (20_memory.md rule R41): data moves it on by one inside a row, clear and home
set it to 0, set-DDRAM-address sets it, the display commands leave it (43_pwm_backlight.md rule R113). After any
other command, and after data at the end of a row or outside every row, it is unknown. -/
def Lcd.byte (c : Cfg) (rs : Bool) (v : Byte) (m : Lcd) : Lcd :=
  if rs then { m with ac := m.ac.bind fun a => if rowGoesOn c a then some (a + 1) else none }
  else if v = c.cmdClear ∨ v = c.cmdHome then { m with ac := some 0 }
  else if v = c.cmdDisplayOn ∨ v = c.cmdDisplayOff then m
  else if v.msb then { m with ac := some (v.toNat % 128) }
  else { m with ac := none }

/-- What one bus event does to the controller: on a narrow bus it pairs nibbles (20_memory.md rule R48); a status
read leaves the pointer (rule R51). DESIGN CHOICE (notes/assumptions/16.md): a nibble left alone by a stray WRN
stays pending across status reads and is joined to the next nibble written, under that one's `RS`; what the
controller makes of it the spec does not model (93_implementation_defined.md U9). -/
def Lcd.see (c : Cfg) (m : Lcd) : Event → Lcd
  | .rd _ _ => m
  | .wr rs u =>
    match c.width, m.half with
    | .w8, _ => m.byte c rs u
    | .w4, none => { m with half := some u }
    | .w4, some h => { m with half := none }.byte c rs (joinNibbles h u)

/-- The controller after a run of events. -/
def Lcd.replay (c : Cfg) (m : Lcd) (evs : List Event) : Lcd := evs.foldl (Lcd.see c) m

/-- The cursor invariant (10_state.md rule R34): no byte half sent, and a cursor in range names the cell the
controller's pointer is at. -/
def PointerAgrees (s : State) (m : Lcd) : Prop :=
  m.half = none ∧ (s.cursorInRange = true → m.ac = addr s.cfg s.curCol s.curRow)

end Sys2Proof.Machine
end

