-- ==== Sys2Proof/Certificates/Slice0/Obligations.lean ====
section
/-! DEFINITION. The statements for the provers. -/

open Sys2Proof Sys2Proof.Machine

/-! ## Encoding -/

/-- Every operation a configuration has is read back from its word, every operand at every value
(30_encoding.md rules R56 to R63). -/
def Obligations.DecodeOfEncode : Prop :=
  ∀ (c : Cfg) (i : Instr), i.WF c → decode c (encode i) = .ok i

/-- A word that decodes is the word of the operation it decodes to, and that operation exists under the
configuration (30_encoding.md rules R56 to R63). -/
def Obligations.EncodeOfDecode : Prop :=
  ∀ (c : Cfg) (w : OpWord) (i : Instr), decode c w = .ok i → encode i = w ∧ i.WF c

/-- 30_encoding.md rule R61: a word spells an operation exactly when a row of the opcode map has its match under
its mask (WRN's mask by `W`, WRAP's row only with `FEAT_WRAP`). -/
def Obligations.OpcodeMapIsMaskAndMatch : Prop :=
  ∀ (c : Cfg) (w : OpWord) (name : String),
    (∃ i, decode c w = .ok i ∧ i.mnemonic = name) ↔
      ((name = "WAITRDY" ∧ w &&& 0xFFFF = 0x1000) ∨
        (name = "WRN" ∧ c.width = .w8 ∧ w &&& 0xFE00 = 0x2000) ∨
        (name = "WRN" ∧ c.width = .w4 ∧ w &&& 0xFEF0 = 0x2000) ∨
        (name = "XFERRAW" ∧ w &&& 0xFE00 = 0x3000) ∨
        (name = "XFER" ∧ w &&& 0xFE00 = 0x4000) ∨
        (name = "GOTO" ∧ w &&& 0xF000 = 0x5000) ∨
        (name = "WRAP" ∧ c.featWrap = true ∧ w &&& 0xFFFF = 0x6000) ∨
        (name = "BRIGHT" ∧ w &&& 0xFF00 = 0x7000))

/-- 30_encoding.md rule R66: presented to an idle block, exactly the reserved words are refused as reserved. -/
def Obligations.ReservedWordsAreRefused : Prop :=
  ∀ (s : State) (w : OpWord) (rest : List HostAct), s.seq = .idle → s.host = .op w :: rest →
    ((∃ why, step s = .refused (.reservedEncoding why)) ↔
      (w.extractLsb' 12 4 = 0 ∨ 8 ≤ (w.extractLsb' 12 4).toNat ∨
        ((w.extractLsb' 12 4 = 1 ∨ w.extractLsb' 12 4 = 6) ∧ w.extractLsb' 0 12 ≠ 0) ∨
        ((w.extractLsb' 12 4 = 2 ∨ w.extractLsb' 12 4 = 3 ∨ w.extractLsb' 12 4 = 4) ∧
          w.extractLsb' 9 3 ≠ 0) ∨
        (w.extractLsb' 12 4 = 7 ∧ w.extractLsb' 8 4 ≠ 0) ∨
        (w.extractLsb' 12 4 = 2 ∧ s.cfg.width = .w4 ∧ w.extractLsb' 4 4 ≠ 0) ∨
        (w = 0x6000 ∧ s.cfg.featWrap = false)))

/-- A sanity statement: the words of 95_test_vectors.md section 2.1, vectors V1 to V10, decode to the operations
named there, on a wide bus with line-wrap. -/
def Obligations.VectorWordsDecode : Prop :=
  [0x1000, 0x2003, 0x3028, 0x4141, 0x4001, 0x5205, 0x5100, 0x6000, 0x7032, 0x70FF].map (decodeTableWord 16) =
    [some .waitrdy, some (.wrn false 0x3), some (.xferraw false 0x28), some (.xfer true 0x41),
      some (.xfer false 0x01), some (.goto 5 2), some (.goto 0 1), some .wrap, some (.bright 50),
      some (.bright 255)]

/-- 30_encoding.md rule R72: a line of a host program that stands for an operation is one word, and that word
decodes to the operation. -/
def Obligations.AssembledLineDecodes : Prop :=
  ∀ (c : Cfg) (l : AsmLine) (i : Instr), l.instr? c = some i → i.WF c →
    ∃ w, l.toHost c = .op w ∧ decode c w = .ok i

/-! ## The port -/

/-- A step of an idle block runs the operation the presented word decodes to, the host's act taken off its list;
then the PWM counter has moved on (the clock's increment is the model's own). -/
def Obligations.StepRunsDecodedInstruction : Prop :=
  ∀ (s : State) (w : OpWord) (rest : List HostAct) (i : Instr), s.seq = .idle →
    (s.host = .op w :: rest ∨ s.host = .opNow w :: rest) → decode s.cfg w = .ok i →
    step s =
      match exec i { s with host := rest } with
      | .next t => .next { t with clock := t.clock + 1 }
      | .fault f => .fault f
      | .refused r => .refused r

/-- 10_state.md rule R20 and 70_reset_and_hazards.md rule R147: a word presented while `BUSY = 1` is refused,
whatever the word, and no operation's meaning completes then. -/
def Obligations.WordWhileBusyIsRefused : Prop :=
  (∀ (s : State), s.busy = true ↔ s.seq ≠ .idle) ∧
  (∀ (s : State) (w : OpWord) (rest : List HostAct), s.busy = true → s.host = .opNow w :: rest →
    step s = .refused .opWhileBusy) ∧
  (∀ (s t : State) (i : Instr), s.busy = true → exec i s ≠ .next t)

/-- 30_encoding.md rule R72 and 70_reset_and_hazards.md rule R137: `DELAY` and an absent word change no register
and emit nothing. -/
def Obligations.DelayAndSilenceChangeNothing : Prop :=
  (∀ (s : State) (k : Nat) (rest : List HostAct), s.seq = .idle → s.host = .delay k :: rest →
    step s = .next { s with host := rest, clock := s.clock + 1 }) ∧
  (∀ (s : State), s.seq = .idle → s.host = [] → step s = .next { s with clock := s.clock + 1 })

/-- 70_reset_and_hazards.md rule R137: what holds after reset, of a block in any state, a hang included. -/
def Obligations.ResetValues : Prop :=
  ∀ (s : State) (rest : List HostAct), s.host = .reset :: rest →
    ∃ t, step s = .next t ∧ t.curCol = 1 ∧ t.curRow = 1 ∧ t.stat = 0x00 ∧ t.seq = .idle ∧ t.busy = false ∧
      t.dir = .output ∧ t.d = 0 ∧ t.rs = false ∧ t.rw = false ∧ t.e = false ∧ t.pwmEn = false ∧ t.pwmCmp = 0 ∧
      t.bl = .off ∧ t.trace = [] ∧ t.cfg = s.cfg ∧ t.host = rest ∧ t.answers = s.answers ∧ t.draws = s.draws

/-- 10_state.md rule R36: the table of reset values, of the machine right after reset. -/
def Obligations.ResetStateHasTheTableValues : Prop :=
  State.reset.curCol = 1 ∧ State.reset.curRow = 1 ∧ State.reset.stat = 0x00 ∧ State.reset.seq = .idle ∧
    State.reset.busy = false ∧ State.reset.dir = .output ∧ State.reset.d = 0 ∧ State.reset.rs = false ∧
    State.reset.rw = false ∧ State.reset.e = false ∧ State.reset.pwmEn = false ∧ State.reset.pwmCmp = 0 ∧
    State.reset.bl = .off ∧ State.reset.trace = []

/-! ## Bus transport -/

/-- 40_bus_transport.md rule R79: WRN on an idle block ends in one step: one write strobe of its unit, `RS` set,
`D` released, everything else as before (cursor, `STAT`, direction, backlight, the controller's answers). -/
def Obligations.WrnWritesOneUnit : Prop :=
  ∀ (s : State) (rs : Bool) (u : Byte), s.seq = .idle → fitsBus s.cfg.width u = true →
    exec (.wrn rs u) s = .next { s with rs := rs, d := 0, e := false, trace := s.trace ++ [.wr rs u] }

/-- 30_encoding.md rules R63 and R66: a WRN of a unit wider than the bus is a reserved encoding, refused. Of a busy
block, for which two refusals apply, that it is this one is the model's choice (notes/assumptions/24.md). -/
def Obligations.WrnOfWideUnitIsRefused : Prop :=
  ∀ (s : State) (rs : Bool) (u : Byte), s.cfg.width = .w4 → u.extractLsb' 4 4 ≠ 0 →
    exec (.wrn rs u) s = .refused (.reservedEncoding .wideUnit)

/-- 40_bus_transport.md rules R77, R78 and R80: XFERRAW on an idle block ends in one step, without a poll: the
byte's units in order, then the cursor effect; `DIR`, `RW`, `STAT`, the backlight and the controller's answers
as before. -/
def Obligations.XferrawWritesByteAndMovesCursor : Prop :=
  ∀ (s : State) (rs : Bool) (v : Byte), s.seq = .idle →
    exec (.xferraw rs v) s =
      .next { s with
        rs := rs, d := 0, e := false
        trace := s.trace ++ (match s.cfg.width with
          | .w4 => [.wr rs (highNibble v), .wr rs (lowNibble v)]
          | .w8 => [.wr rs v])
        curCol := if rs then s.curCol + 1
          else if v = s.cfg.cmdClear ∨ v = s.cfg.cmdHome then 1 else s.curCol
        curRow := if rs then s.curRow
          else if v = s.cfg.cmdClear ∨ v = s.cfg.cmdHome then 1 else s.curRow }

/-- 40_bus_transport.md rule R81: XFER on an idle block whose controller answers ready ends in one step: one
poll, the byte's units, the cursor effect; the lines idle, the backlight as before. -/
def Obligations.XferPollsThenWritesByte : Prop :=
  ∀ (s : State) (rs : Bool) (v : Byte), s.seq = .idle → s.answersBusy = false →
    exec (.xfer rs v) s =
      .next { s.polled with
        dir := .output, rw := false, rs := rs, d := 0, e := false
        trace := s.trace ++ (unitsOf s.cfg.width s.nextStatus).map (Event.rd false) ++
          (unitsOf s.cfg.width v).map (Event.wr rs)
        curCol := if rs then s.curCol + 1
          else if v = s.cfg.cmdClear ∨ v = s.cfg.cmdHome then 1 else s.curCol
        curRow := if rs then s.curRow
          else if v = s.cfg.cmdClear ∨ v = s.cfg.cmdHome then 1 else s.curRow }

/-- 40_bus_transport.md rule R82: after WRN, XFERRAW and XFER have ended the idle invariant holds again, and `RS`
is the operation's `rs`; an XFER that had to wait for its controller included. -/
def Obligations.TransferRestoresIdleLines : Prop :=
  (∀ (s t : State) (rs : Bool) (v : Byte) (i : Instr), IdleLines s → s.seq = .idle →
    (i = .wrn rs v ∨ i = .xferraw rs v ∨ i = .xfer rs v) → exec i s = .next t → t.seq = .idle →
    IdleLines t ∧ t.rs = rs) ∧
  (∀ (s t : State) (rs : Bool) (v : Byte) (k : Nat), Inv s → s.seq = .run (.xfer rs v) k →
    s.hostConforms = true → step s = .next t → t.seq = .idle → IdleLines t ∧ t.rs = rs)

/-! ## Busy-flag synchronizer -/

/-- 41_busy_flag_sync.md rule R90: WAITRDY on an idle block whose controller answers ready ends in one step: one
poll into `STAT`, the lines idle with `RS = 0`; `D`, cursor and backlight as before. -/
def Obligations.WaitrdyEndsWhenReady : Prop :=
  ∀ (s : State), s.seq = .idle → s.answersBusy = false →
    exec .waitrdy s =
      .next { s.polled with dir := .output, rs := false, rw := false, e := false }

/-- 41_busy_flag_sync.md rules R89 and R90: WAITRDY's loop tests bit 7 of the status byte, which is the top bit of
the first unit of the poll: after that poll the block is busy exactly when this bit is set; the low nibble of a
narrow-bus poll never matters. Where the unit comes from is the model's oracle (notes/assumptions/6.md). -/
def Obligations.BusyTestIsTopBitOfFirstUnit : Prop :=
  ∀ (s : State), s.seq = .idle →
    ∃ t, exec .waitrdy s = .next t ∧
      (s.cfg.width = .w8 → t.busy = (s.answers.headD (Config.freeSample s.draws)).getLsbD 7) ∧
      (s.cfg.width = .w4 → t.busy = (s.answers.headD (Config.freeSample s.draws)).getLsbD 3)

/-- 41_busy_flag_sync.md rule R93 and 60_exceptions.md rule R124: every polled operation whose controller
answers busy leaves the block waiting in that operation: one poll done, no write strobe, `DIR = in`, `RW = 1`,
`RS = 0`, the cursor untouched; the edge cases of BRIGHT have written the backlight registers first (rule R156).
The number of the place in `SEQ` is the model's convention (notes/assumptions/4.md). -/
def Obligations.PolledOperationsWaitWhileBusy : Prop :=
  ∀ (s : State), s.seq = .idle → s.answersBusy = true →
    exec .waitrdy s = .next (s.waiting .waitrdy 3) ∧
    (∀ rs v, exec (.xfer rs v) s = .next (s.waiting (.xfer rs v) 3)) ∧
    (∀ col row, inDomain s.cfg col row = true → s.cfg.WF →
      exec (.goto col row) s = .next (s.waiting (.goto col row) 3)) ∧
    (s.cfg.featWrap = true → s.cfg.WF → s.wrapMoves = true → exec .wrap s = .next (s.waiting .wrap 4)) ∧
    (∀ pct : BitVec 8, (100 ≤ pct.toNat ∨ pct = 0) →
      exec (.bright pct) s = .next ((s.backlit pct).waiting (.bright pct) 6))

/-- 41_busy_flag_sync.md rules R90 and R93: one more step of a waiting block is one more poll: on a busy answer it
waits on, on a ready one the operation ends. -/
def Obligations.WaitingBlockPollsAgain : Prop :=
  ∀ (s : State) (op : Instr) (k : Nat), Inv s → s.seq = .run op k → s.hostConforms = true →
    (s.answersBusy = true → step s = .next (s.waiting op k).tick) ∧
      (s.answersBusy = false → step s = .next (s.finished op).tick)

/-- 41_busy_flag_sync.md rule R93: while every poll answers busy the operation does not end, however long: after
any number of busy answers the block still waits in the same operation, having added only polls to the trace. That
one poll is one step is the model's choice (notes/assumptions/8.md). -/
def Obligations.HangLastsAsLongAsBusyAnswers : Prop :=
  ∀ (bs rest : List Byte) (s : State) (op : Instr) (k : Nat), Inv s → s.seq = .run op k →
    s.hostConforms = true → (∀ b ∈ bs, b.msb = true) →
    s.answers = bs.flatMap (unitsOf s.cfg.width) ++ rest →
    ∃ t, steps bs.length s = .next t ∧ t.seq = s.seq ∧ WaitLines t ∧ t.host = s.host ∧ t.answers = rest ∧
      t.trace = s.trace ++ bs.flatMap (fun b => (unitsOf s.cfg.width b).map (Event.rd false)) ∧
      t.curCol = s.curCol ∧ t.curRow = s.curRow ∧ t.pwmEn = s.pwmEn ∧ t.pwmCmp = s.pwmCmp ∧ t.bl = s.bl

/-- 41_busy_flag_sync.md rules R90 and R95, 40_bus_transport.md rule R86: an operation that polls (WAITRDY, XFER,
GOTO in the geometry, a WRAP that moves, BRIGHT in its edge cases), whose controller answers busy any number of
times and then ready, ends: the trace is the polls in order and then the operation's one byte, `STAT` is the last
answer, cursor and backlight are as the operation's rule says. That each poll is one step is the model's choice
(notes/assumptions/8.md). -/
def Obligations.PolledOperationEndsAfterItsPolls : Prop :=
  ∀ (bs rest : List Byte) (v : Byte) (s : State) (i : Instr) (k : Nat) (h : List HostAct), Inv s →
    s.seq = .idle → waitPlace? s i = some k →
    s.host = .op (encode i) :: h → ({ s with host := h } : State).hostConforms = true →
    (∀ b ∈ bs, b.msb = true) → v.msb = false →
    s.answers = (bs ++ [v]).flatMap (unitsOf s.cfg.width) ++ rest →
    ∃ t, steps (bs.length + 1) s = .next t ∧ t.seq = .idle ∧ IdleLines t ∧ t.host = h ∧ t.answers = rest ∧
      t.stat = v ∧
      t.trace = s.trace ++ (bs ++ [v]).flatMap (fun b => (unitsOf s.cfg.width b).map (Event.rd false)) ++
        (match sentByte? s i with
          | some (rs, b) => (unitsOf s.cfg.width b).map (Event.wr rs)
          | none => []) ∧
      (t.curCol, t.curRow) = s.cursorAfter i ∧
      t.pwmEn = (s.backlitBy i).pwmEn ∧ t.pwmCmp = (s.backlitBy i).pwmCmp ∧ t.bl = (s.backlitBy i).bl

/-! ## Address decoder, GOTO, WRAP -/

/-- 42_ddram_address.md rules R97, R98 and R99: the address of a cell, row by row. -/
def Obligations.AddressFormula : Prop :=
  ∀ (c : Cfg) (col : BitVec 8) (row : BitVec 4), c.WF → 1 ≤ row.toNat → row.toNat ≤ c.rows → col.toNat ≤ c.cols →
    addr c col row = some
      ((if row = 1 then 0 else if row = 2 then 64 else if row = 3 then c.cols else 64 + c.cols) +
        ((if col = 0 then 1 else col.toNat) - 1))

/-- 42_ddram_address.md rule R100: addresses fit 7 bits, and two different cells have different addresses. -/
def Obligations.AddressesInRangeAndDisjoint : Prop :=
  (∀ (c : Cfg) (col : BitVec 8) (row : BitVec 4), c.WF → inDomain c col row = true →
    ∃ a, addr c col row = some a ∧ a ≤ 127) ∧
  (∀ (c : Cfg) (col col' : BitVec 8) (row row' : BitVec 4), c.WF → inDomain c col row = true →
    inDomain c col' row' = true → 1 ≤ col.toNat → 1 ≤ col'.toNat → (col, row) ≠ (col', row') →
    addr c col row ≠ addr c col' row')

/-- 42_ddram_address.md rules R98 and R103: column 0 is an alias of column 1, in the decoder and, where the
controller answers ready, in GOTO as a whole. -/
def Obligations.ColumnZeroIsColumnOne : Prop :=
  (∀ (c : Cfg) (row : BitVec 4), c.WF → addr c 0 row = addr c 1 row) ∧
  (∀ (s : State) (row : BitVec 4), s.cfg.WF → s.seq = .idle → s.answersBusy = false →
    exec (.goto 0 row) s = exec (.goto 1 row) s)

/-- 42_ddram_address.md rule R101: GOTO to a cell of the geometry, on an idle block whose controller answers
ready, ends in one step: one poll, the command byte `SET_DDRAM | addr(col, row)`, then the cursor; the backlight
as before. -/
def Obligations.GotoSendsAddressAndSetsCursor : Prop :=
  ∀ (s : State) (col : BitVec 8) (row : BitVec 4) (a : Nat), s.seq = .idle → s.answersBusy = false →
    addr s.cfg col row = some a →
    exec (.goto col row) s =
      .next { s.polled with
        dir := .output, rw := false, rs := false, d := 0, e := false
        trace := s.trace ++ (unitsOf s.cfg.width s.nextStatus).map (Event.rd false) ++
          (unitsOf s.cfg.width (s.cfg.setDdram ||| BitVec.ofNat 8 a)).map (Event.wr false)
        curCol := if col = 0 then 1 else col
        curRow := row }

/-- 42_ddram_address.md rule R102: a GOTO with `row = 0`, `row > R` or `col > N` is refused, which is a verdict of
the model where the hardware's effect is unspecified (notes/assumptions/12.md). Of a busy block, for which two
refusals apply, that it is this one is the model's choice (notes/assumptions/24.md). -/
def Obligations.GotoOutsideGeometryIsRefused : Prop :=
  ∀ (s : State) (col : BitVec 8) (row : BitVec 4),
    (row = 0 ∨ s.cfg.rows < row.toNat ∨ s.cfg.cols < col.toNat) →
    exec (.goto col row) s = .refused .configurationMismatch

/-- 42_ddram_address.md rule R104: past the row's end, with a next row, WRAP goes to column 1 of the next row. -/
def Obligations.WrapMovesToNextRow : Prop :=
  ∀ (s : State), s.cfg.WF → s.cfg.featWrap = true → s.seq = .idle → s.answersBusy = false →
    s.cfg.cols < s.curCol.toNat → s.curRow.toNat < s.cfg.rows →
    ∃ o, rowOff s.cfg.cols (s.curRow.toNat + 1) = some o ∧
      exec .wrap s =
        .next { s.polled with
          dir := .output, rw := false, rs := false, d := 0, e := false
          trace := s.trace ++ (unitsOf s.cfg.width s.nextStatus).map (Event.rd false) ++
            (unitsOf s.cfg.width (s.cfg.setDdram ||| BitVec.ofNat 8 o)).map (Event.wr false)
          curCol := 1
          curRow := s.curRow + 1 }

/-- 42_ddram_address.md rules R104 and R105: at or before column `N`, or on the last row, WRAP does nothing:
no poll, no event, no register. -/
def Obligations.WrapElsewhereDoesNothing : Prop :=
  ∀ (s : State), s.cfg.featWrap = true → s.seq = .idle →
    (s.curCol.toNat ≤ s.cfg.cols ∨ s.cfg.rows ≤ s.curRow.toNat) → exec .wrap s = .next s

/-- 30_encoding.md rule R66 and 00_scope.md rule R11: without `FEAT_WRAP`, WRAP is a reserved encoding. Of a busy
block, for which two refusals apply, that it is this one is the model's choice (notes/assumptions/24.md). -/
def Obligations.WrapWithoutFeatureIsRefused : Prop :=
  ∀ (s : State), s.cfg.featWrap = false → exec .wrap s = .refused (.reservedEncoding .noWrap)

/-- 42_ddram_address.md rule R107: the cursor registers as the rule's table (`State.cursorAfter`) gives them, after
every operation that ends at its acceptance and after every waiting operation that ends at a later poll;
unchanged while an operation waits; `(1, 1)` after reset. -/
def Obligations.CursorAfterEveryOperation : Prop :=
  (∀ (s t : State) (i : Instr), s.cfg.WF → s.seq = .idle → exec i s = .next t →
    (t.seq = .idle → (t.curCol, t.curRow) = s.cursorAfter i) ∧
      (t.seq ≠ .idle → (t.curCol, t.curRow) = (s.curCol, s.curRow))) ∧
  (∀ (s t : State) (op : Instr) (k : Nat), Inv s → s.seq = .run op k → s.hostConforms = true →
    step s = .next t →
    (t.seq = .idle → (t.curCol, t.curRow) = s.cursorAfter op) ∧
      (t.seq ≠ .idle → (t.curCol, t.curRow) = (s.curCol, s.curRow))) ∧
  (∀ s : State, ((blockReset s).curCol, (blockReset s).curRow) = (1, 1))

/-! ## Backlight -/

/-- 43_pwm_backlight.md rules R110 and R114: BRIGHT with `1 <= pct <= 99` on an idle block ends in one step:
the compare value is the exact ceiling, the timer runs, nothing goes to the controller; `BL` as before. -/
def Obligations.BrightBetweenSetsDuty : Prop :=
  ∀ (s : State) (pct : BitVec 8), s.seq = .idle → 1 ≤ pct.toNat → pct.toNat ≤ 99 →
    exec (.bright pct) s =
      .next { s with pwmCmp := (s.cfg.pwmTop * pct.toNat + 99) / 100, pwmEn := true }

/-- 43_pwm_backlight.md rule R112: BRIGHT with `pct >= 100`, the controller answering ready. -/
def Obligations.BrightFullSwitchesOn : Prop :=
  ∀ (s : State) (pct : BitVec 8), s.cfg.WF → s.seq = .idle → s.answersBusy = false → 100 ≤ pct.toNat →
    exec (.bright pct) s =
      .next { s.polled with
        pwmEn := false, pwmCmp := s.cfg.pwmTop, bl := .on
        dir := .output, rw := false, rs := false, d := 0, e := false
        trace := s.trace ++ (unitsOf s.cfg.width s.nextStatus).map (Event.rd false) ++
          (unitsOf s.cfg.width s.cfg.cmdDisplayOn).map (Event.wr false) }

/-- 43_pwm_backlight.md rule R113: BRIGHT with `pct = 0`, the controller answering ready. -/
def Obligations.BrightZeroSwitchesOff : Prop :=
  ∀ (s : State), s.cfg.WF → s.seq = .idle → s.answersBusy = false →
    exec (.bright 0) s =
      .next { s.polled with
        pwmEn := false, pwmCmp := 0, bl := .off
        dir := .output, rw := false, rs := false, d := 0, e := false
        trace := s.trace ++ (unitsOf s.cfg.width s.nextStatus).map (Event.rd false) ++
          (unitsOf s.cfg.width s.cfg.cmdDisplayOff).map (Event.wr false) }

/-- 43_pwm_backlight.md rule R110: the compare value is the exact ceiling of `PWM_TOP * pct / 100`, and
`ceil(PWM_TOP / 2)` at 50. That it lies in `1 .. PWM_TOP` and does not decrease with `pct` the spec derives from
the formula. -/
def Obligations.DutyIsTheBoundedCeiling : Prop :=
  ∀ (top p q : Nat), 1 ≤ top → 1 ≤ p → p ≤ q → q ≤ 99 →
    top * p ≤ 100 * duty top p ∧ 100 * duty top p < top * p + 100 ∧ 1 ≤ duty top p ∧ duty top p ≤ top ∧
      duty top p ≤ duty top q ∧ duty top 50 = (top + 1) / 2

/-- 43_pwm_backlight.md rules R115 and R117, 70_reset_and_hazards.md rule R156: what the pin carries after a
BRIGHT, whether its operation has ended or hangs in its poll: static at the edges, in between `on` exactly while
the counter is below the compare value, wherever the free counter stands. -/
def Obligations.PinFollowsBright : Prop :=
  ∀ (s t : State) (pct : BitVec 8), exec (.bright pct) s = .next t →
    (100 ≤ pct.toNat → t.pwmEn = false ∧ t.pinLevel = .on ∧ t.pinElectrical = s.cfg.blOnLevel) ∧
    (pct = 0 → t.pwmEn = false ∧ t.pinLevel = .off ∧ t.pinElectrical = !s.cfg.blOnLevel) ∧
    (1 ≤ pct.toNat → pct.toNat ≤ 99 →
      (t.pinLevel = .on ↔ t.cnt < duty s.cfg.pwmTop pct.toNat) ∧ t.cnt ≤ s.cfg.pwmTop)

/-- 10_state.md rules R28 to R30: the backlight registers are written by BRIGHT and by reset only. -/
def Obligations.BacklightWrittenOnlyByBright : Prop :=
  ∀ (s t : State), Inv s → step s = .next t →
    (t.pwmEn = s.pwmEn ∧ t.pwmCmp = s.pwmCmp ∧ t.bl = s.bl) ∨ (∃ rest, s.host = .reset :: rest) ∨
      (∃ w rest pct, (s.host = .op w :: rest ∨ s.host = .opNow w :: rest) ∧ s.seq = .idle ∧
        decode s.cfg w = .ok (.bright pct))

/-! ## The whole machine -/

/-- `Inv` holds after reset, under every legal configuration (10_state.md rule R36). -/
def Obligations.InvariantHoldsAtReset : Prop :=
  Inv State.reset ∧ ∀ c : Cfg, c.WF → Inv (State.resetWith c)

/-- Every step keeps `Inv`: idle lines between operations, the waiting lines in a hang, the cursor's row in the
geometry, the compare value in its range, a trace of this bus (10_state.md rules R27 and R29,
41_busy_flag_sync.md rule R92, 42_ddram_address.md rule R108). -/
def Obligations.StepKeepsInvariant : Prop :=
  ∀ (s t : State), Inv s → step s = .next t → Inv t

/-- 60_exceptions.md rules R121 and R125: no step raises a fault, and a step is refused only for a reserved
word, a word presented while busy, or a GOTO outside the geometry. -/
def Obligations.NoFaultAndThreeRefusals : Prop :=
  ∀ (s : State), Inv s →
    (∀ f, step s ≠ .fault f) ∧
    (∀ r, step s = .refused r →
      ∃ w rest, (s.host = .op w :: rest ∨ s.host = .opNow w :: rest) ∧
        ((r = .opWhileBusy ∧ s.busy = true) ∨
          (∃ why, r = .reservedEncoding why ∧ s.busy = false ∧ decode s.cfg w = .error why) ∨
          (∃ col row, r = .configurationMismatch ∧ s.busy = false ∧ decode s.cfg w = .ok (.goto col row) ∧
            inDomain s.cfg col row = false)))

/-- 00_scope.md rule R6 and 20_memory.md rule R54: no step changes the configuration, and the trace only grows,
but for a reset. -/
def Obligations.ConfigurationFixedAndTraceGrows : Prop :=
  ∀ (s t : State), step s = .next t →
    t.cfg = s.cfg ∧ ((∀ rest, s.host ≠ .reset :: rest) → s.trace <+: t.trace)

/-! ## The micro-steps -/

/-- 10_state.md rule R18: under a legal configuration the big step of an operation is a run of its micro-steps from
`Run(op, 0)`, the block busy at every one of them before the last (how lines are cut into micro-steps: notes/assumptions/4.md). -/
def Obligations.OperationIsItsMicroSteps : Prop :=
  ∀ (s t : State) (i : Instr), s.cfg.WF → s.seq = .idle → exec i s = .next t →
    ∃ n, microSteps n (accepted i s) = t ∧ ∀ m < n, (microSteps m (accepted i s)).busy = true

/-- 42_ddram_address.md rule R104: a WRAP that moves is the GOTO to column 1 of the next row. On a ready answer the
two leave the same state; on a busy one they leave the same state but for the operation `SEQ` names (10_state.md
rule R18); and from there each step of the WRAP is that of the GOTO. The places 3 and 4 are the model's
(notes/assumptions/4.md). -/
def Obligations.WrapThatMovesIsGoto : Prop :=
  (∀ (s : State), s.cfg.featWrap = true → s.wrapMoves = true → s.seq = .idle →
    (s.answersBusy = false → exec .wrap s = exec (.goto 1 (s.curRow + 1)) s) ∧
      (s.answersBusy = true → ∀ t, exec (.goto 1 (s.curRow + 1)) s = .next t →
        exec .wrap s = .next { t with seq := .run .wrap 4 })) ∧
  (∀ (s : State), Inv s → s.seq = .run .wrap 4 → s.hostConforms = true →
    (s.answersBusy = false → step s = step { s with seq := .run (.goto 1 (s.curRow + 1)) 3 }) ∧
      (s.answersBusy = true → ∀ t, step { s with seq := .run (.goto 1 (s.curRow + 1)) 3 } = .next t →
        step s = .next { t with seq := .run .wrap 4 }))

/-- 10_state.md rule R25, 40_bus_transport.md rule R83, 41_busy_flag_sync.md rule R92: at no micro-step of any
operation are `RW = 1` and `DIR = out` together, and every strobe is a write with the lines as outputs or a
status read with the lines as inputs. -/
def Obligations.LinesKeepDirectionDiscipline : Prop :=
  ∀ (s : State) (i : Instr) (n : Nat), IdleLines s → (program s i).isSome = true →
    WireOk (microSteps n (accepted i s))

/-- 40_bus_transport.md rule R75: `RS`, `RW`, `DIR` and `D` are set before `E` rises and do not change until
after it has fallen. -/
def Obligations.LinesStableDuringStrobe : Prop :=
  ∀ (s : State) (i : Instr) (n : Nat), IdleLines s → (program s i).isSome = true →
    ((microSteps n (accepted i s)).e = true ∨ (microSteps (n + 1) (accepted i s)).e = true) →
    sameLines (microSteps n (accepted i s)) (microSteps (n + 1) (accepted i s))

/-! ## Block and controller -/

/-- 10_state.md rule R34: under the controller of `Lcd` (an assumption the claim takes by name: 20_memory.md rule
R41, notes/assumptions/16.md; its display commands are none of its set-address commands, notes/assumptions/22.md)
and a host that keeps the obligations of 70_reset_and_hazards.md rules R148 to R153, every step keeps the cursor
registers and the controller's DDRAM pointer together: a step that ends an operation, at its acceptance or at a
later poll, one that leaves it waiting, and one that runs none. -/
def Obligations.CursorNamesControllerPointer : Prop :=
  ∀ (s t : State) (m : Lcd), Inv s → s.cfg.cmdDisplayOn.msb = false → s.cfg.cmdDisplayOff.msb = false →
    s.hostSteady → SteadySeq s → PointerAgrees s m → step s = .next t →
    SteadySeq t ∧ ∃ evs, t.trace = s.trace ++ evs ∧ PointerAgrees t (m.replay s.cfg evs)
end

