-- ==== Sys2Proof/Laws/State.lean ====
section
/-! SUPPORT. The small lemmas of the state's updates: one per field per update, each by rfl, and what each
micro-step is as a record update. -/

namespace Sys2Proof.Machine

@[simp] theorem State.drawn_cfg (s : State) : (s.drawn).cfg = s.cfg := rfl
@[simp] theorem State.drawn_curCol (s : State) : (s.drawn).curCol = s.curCol := rfl
@[simp] theorem State.drawn_curRow (s : State) : (s.drawn).curRow = s.curRow := rfl
@[simp] theorem State.drawn_stat (s : State) : (s.drawn).stat = s.stat := rfl
@[simp] theorem State.drawn_seq (s : State) : (s.drawn).seq = s.seq := rfl
@[simp] theorem State.drawn_dir (s : State) : (s.drawn).dir = s.dir := rfl
@[simp] theorem State.drawn_d (s : State) : (s.drawn).d = s.d := rfl
@[simp] theorem State.drawn_rs (s : State) : (s.drawn).rs = s.rs := rfl
@[simp] theorem State.drawn_rw (s : State) : (s.drawn).rw = s.rw := rfl
@[simp] theorem State.drawn_e (s : State) : (s.drawn).e = s.e := rfl
@[simp] theorem State.drawn_pwmEn (s : State) : (s.drawn).pwmEn = s.pwmEn := rfl
@[simp] theorem State.drawn_pwmCmp (s : State) : (s.drawn).pwmCmp = s.pwmCmp := rfl
@[simp] theorem State.drawn_bl (s : State) : (s.drawn).bl = s.bl := rfl
@[simp] theorem State.drawn_trace (s : State) : (s.drawn).trace = s.trace := rfl
@[simp] theorem State.drawn_smp (s : State) : (s.drawn).smp = s.smp := rfl
@[simp] theorem State.drawn_smpHigh (s : State) : (s.drawn).smpHigh = s.smpHigh := rfl
@[simp] theorem State.drawn_answers (s : State) : (s.drawn).answers = s.answers.tail := rfl
@[simp] theorem State.drawn_draws (s : State) : (s.drawn).draws = s.draws + 1 := rfl
@[simp] theorem State.drawn_host (s : State) : (s.drawn).host = s.host := rfl
@[simp] theorem State.drawn_clock (s : State) : (s.drawn).clock = s.clock := rfl

@[simp] theorem State.tick_cfg (s : State) : (s.tick).cfg = s.cfg := rfl
@[simp] theorem State.tick_curCol (s : State) : (s.tick).curCol = s.curCol := rfl
@[simp] theorem State.tick_curRow (s : State) : (s.tick).curRow = s.curRow := rfl
@[simp] theorem State.tick_stat (s : State) : (s.tick).stat = s.stat := rfl
@[simp] theorem State.tick_seq (s : State) : (s.tick).seq = s.seq := rfl
@[simp] theorem State.tick_dir (s : State) : (s.tick).dir = s.dir := rfl
@[simp] theorem State.tick_d (s : State) : (s.tick).d = s.d := rfl
@[simp] theorem State.tick_rs (s : State) : (s.tick).rs = s.rs := rfl
@[simp] theorem State.tick_rw (s : State) : (s.tick).rw = s.rw := rfl
@[simp] theorem State.tick_e (s : State) : (s.tick).e = s.e := rfl
@[simp] theorem State.tick_pwmEn (s : State) : (s.tick).pwmEn = s.pwmEn := rfl
@[simp] theorem State.tick_pwmCmp (s : State) : (s.tick).pwmCmp = s.pwmCmp := rfl
@[simp] theorem State.tick_bl (s : State) : (s.tick).bl = s.bl := rfl
@[simp] theorem State.tick_trace (s : State) : (s.tick).trace = s.trace := rfl
@[simp] theorem State.tick_smp (s : State) : (s.tick).smp = s.smp := rfl
@[simp] theorem State.tick_smpHigh (s : State) : (s.tick).smpHigh = s.smpHigh := rfl
@[simp] theorem State.tick_answers (s : State) : (s.tick).answers = s.answers := rfl
@[simp] theorem State.tick_draws (s : State) : (s.tick).draws = s.draws := rfl
@[simp] theorem State.tick_host (s : State) : (s.tick).host = s.host := rfl
@[simp] theorem State.tick_clock (s : State) : (s.tick).clock = s.clock + 1 := rfl

@[simp] theorem State.polled_cfg (s : State) : (s.polled).cfg = s.cfg := rfl
@[simp] theorem State.polled_curCol (s : State) : (s.polled).curCol = s.curCol := rfl
@[simp] theorem State.polled_curRow (s : State) : (s.polled).curRow = s.curRow := rfl
@[simp] theorem State.polled_stat (s : State) : (s.polled).stat = s.nextStatus := rfl
@[simp] theorem State.polled_seq (s : State) : (s.polled).seq = s.seq := rfl
@[simp] theorem State.polled_dir (s : State) : (s.polled).dir = s.dir := rfl
@[simp] theorem State.polled_d (s : State) : (s.polled).d = s.d := rfl
@[simp] theorem State.polled_rs (s : State) : (s.polled).rs = s.rs := rfl
@[simp] theorem State.polled_rw (s : State) : (s.polled).rw = s.rw := rfl
@[simp] theorem State.polled_e (s : State) : (s.polled).e = s.e := rfl
@[simp] theorem State.polled_pwmEn (s : State) : (s.polled).pwmEn = s.pwmEn := rfl
@[simp] theorem State.polled_pwmCmp (s : State) : (s.polled).pwmCmp = s.pwmCmp := rfl
@[simp] theorem State.polled_bl (s : State) : (s.polled).bl = s.bl := rfl
@[simp] theorem State.polled_trace (s : State) : (s.polled).trace = s.trace ++ (unitsOf s.cfg.width s.nextStatus).map (Event.rd false) := rfl
@[simp] theorem State.polled_smp (s : State) : (s.polled).smp = toUnit s.cfg.width s.nextStatus := rfl
@[simp] theorem State.polled_answers (s : State) : (s.polled).answers = s.answers.drop s.cfg.width.unitsPerByte := rfl
@[simp] theorem State.polled_draws (s : State) : (s.polled).draws = s.draws + s.cfg.width.unitsPerByte := rfl
@[simp] theorem State.polled_host (s : State) : (s.polled).host = s.host := rfl
@[simp] theorem State.polled_clock (s : State) : (s.polled).clock = s.clock := rfl

@[simp] theorem State.waiting_cfg (op : Instr) (k : Nat) (s : State) : (s.waiting op k).cfg = s.cfg := rfl
@[simp] theorem State.waiting_curCol (op : Instr) (k : Nat) (s : State) : (s.waiting op k).curCol = s.curCol := rfl
@[simp] theorem State.waiting_curRow (op : Instr) (k : Nat) (s : State) : (s.waiting op k).curRow = s.curRow := rfl
@[simp] theorem State.waiting_stat (op : Instr) (k : Nat) (s : State) : (s.waiting op k).stat = s.nextStatus := rfl
@[simp] theorem State.waiting_seq (op : Instr) (k : Nat) (s : State) : (s.waiting op k).seq = .run op k := rfl
@[simp] theorem State.waiting_dir (op : Instr) (k : Nat) (s : State) : (s.waiting op k).dir = .input := rfl
@[simp] theorem State.waiting_d (op : Instr) (k : Nat) (s : State) : (s.waiting op k).d = s.d := rfl
@[simp] theorem State.waiting_rs (op : Instr) (k : Nat) (s : State) : (s.waiting op k).rs = false := rfl
@[simp] theorem State.waiting_rw (op : Instr) (k : Nat) (s : State) : (s.waiting op k).rw = true := rfl
@[simp] theorem State.waiting_e (op : Instr) (k : Nat) (s : State) : (s.waiting op k).e = false := rfl
@[simp] theorem State.waiting_pwmEn (op : Instr) (k : Nat) (s : State) : (s.waiting op k).pwmEn = s.pwmEn := rfl
@[simp] theorem State.waiting_pwmCmp (op : Instr) (k : Nat) (s : State) : (s.waiting op k).pwmCmp = s.pwmCmp := rfl
@[simp] theorem State.waiting_bl (op : Instr) (k : Nat) (s : State) : (s.waiting op k).bl = s.bl := rfl
@[simp] theorem State.waiting_trace (op : Instr) (k : Nat) (s : State) : (s.waiting op k).trace = s.polled.trace := rfl
@[simp] theorem State.waiting_answers (op : Instr) (k : Nat) (s : State) : (s.waiting op k).answers = s.polled.answers := rfl
@[simp] theorem State.waiting_draws (op : Instr) (k : Nat) (s : State) : (s.waiting op k).draws = s.polled.draws := rfl
@[simp] theorem State.waiting_host (op : Instr) (k : Nat) (s : State) : (s.waiting op k).host = s.host := rfl
@[simp] theorem State.waiting_clock (op : Instr) (k : Nat) (s : State) : (s.waiting op k).clock = s.clock := rfl

@[simp] theorem State.ready_cfg (s : State) : (s.ready).cfg = s.cfg := rfl
@[simp] theorem State.ready_curCol (s : State) : (s.ready).curCol = s.curCol := rfl
@[simp] theorem State.ready_curRow (s : State) : (s.ready).curRow = s.curRow := rfl
@[simp] theorem State.ready_stat (s : State) : (s.ready).stat = s.nextStatus := rfl
@[simp] theorem State.ready_seq (s : State) : (s.ready).seq = s.seq := rfl
@[simp] theorem State.ready_dir (s : State) : (s.ready).dir = .output := rfl
@[simp] theorem State.ready_d (s : State) : (s.ready).d = s.d := rfl
@[simp] theorem State.ready_rs (s : State) : (s.ready).rs = false := rfl
@[simp] theorem State.ready_rw (s : State) : (s.ready).rw = false := rfl
@[simp] theorem State.ready_e (s : State) : (s.ready).e = false := rfl
@[simp] theorem State.ready_pwmEn (s : State) : (s.ready).pwmEn = s.pwmEn := rfl
@[simp] theorem State.ready_pwmCmp (s : State) : (s.ready).pwmCmp = s.pwmCmp := rfl
@[simp] theorem State.ready_bl (s : State) : (s.ready).bl = s.bl := rfl
@[simp] theorem State.ready_trace (s : State) : (s.ready).trace = s.polled.trace := rfl
@[simp] theorem State.ready_answers (s : State) : (s.ready).answers = s.polled.answers := rfl
@[simp] theorem State.ready_draws (s : State) : (s.ready).draws = s.polled.draws := rfl
@[simp] theorem State.ready_host (s : State) : (s.ready).host = s.host := rfl
@[simp] theorem State.ready_clock (s : State) : (s.ready).clock = s.clock := rfl

@[simp] theorem State.written_cfg (r : Bool) (v : Byte) (s : State) : (s.written r v).cfg = s.cfg := rfl
@[simp] theorem State.written_curCol (r : Bool) (v : Byte) (s : State) : (s.written r v).curCol = s.curCol := rfl
@[simp] theorem State.written_curRow (r : Bool) (v : Byte) (s : State) : (s.written r v).curRow = s.curRow := rfl
@[simp] theorem State.written_stat (r : Bool) (v : Byte) (s : State) : (s.written r v).stat = s.stat := rfl
@[simp] theorem State.written_seq (r : Bool) (v : Byte) (s : State) : (s.written r v).seq = s.seq := rfl
@[simp] theorem State.written_dir (r : Bool) (v : Byte) (s : State) : (s.written r v).dir = s.dir := rfl
@[simp] theorem State.written_d (r : Bool) (v : Byte) (s : State) : (s.written r v).d = 0 := rfl
@[simp] theorem State.written_rs (r : Bool) (v : Byte) (s : State) : (s.written r v).rs = r := rfl
@[simp] theorem State.written_rw (r : Bool) (v : Byte) (s : State) : (s.written r v).rw = s.rw := rfl
@[simp] theorem State.written_e (r : Bool) (v : Byte) (s : State) : (s.written r v).e = false := rfl
@[simp] theorem State.written_pwmEn (r : Bool) (v : Byte) (s : State) : (s.written r v).pwmEn = s.pwmEn := rfl
@[simp] theorem State.written_pwmCmp (r : Bool) (v : Byte) (s : State) : (s.written r v).pwmCmp = s.pwmCmp := rfl
@[simp] theorem State.written_bl (r : Bool) (v : Byte) (s : State) : (s.written r v).bl = s.bl := rfl
@[simp] theorem State.written_trace (r : Bool) (v : Byte) (s : State) : (s.written r v).trace = s.trace ++ (unitsOf s.cfg.width v).map (Event.wr r) := rfl
@[simp] theorem State.written_smp (r : Bool) (v : Byte) (s : State) : (s.written r v).smp = s.smp := rfl
@[simp] theorem State.written_smpHigh (r : Bool) (v : Byte) (s : State) : (s.written r v).smpHigh = s.smpHigh := rfl
@[simp] theorem State.written_answers (r : Bool) (v : Byte) (s : State) : (s.written r v).answers = s.answers := rfl
@[simp] theorem State.written_draws (r : Bool) (v : Byte) (s : State) : (s.written r v).draws = s.draws := rfl
@[simp] theorem State.written_host (r : Bool) (v : Byte) (s : State) : (s.written r v).host = s.host := rfl
@[simp] theorem State.written_clock (r : Bool) (v : Byte) (s : State) : (s.written r v).clock = s.clock := rfl

@[simp] theorem State.wentTo_cfg (c : BitVec 8) (r : BitVec 4) (s : State) :
    (s.wentTo c r).cfg = s.cfg := rfl
@[simp] theorem State.wentTo_curCol (c : BitVec 8) (r : BitVec 4) (s : State) :
    (s.wentTo c r).curCol = colNorm c := rfl
@[simp] theorem State.wentTo_curRow (c : BitVec 8) (r : BitVec 4) (s : State) :
    (s.wentTo c r).curRow = r := rfl
@[simp] theorem State.wentTo_stat (c : BitVec 8) (r : BitVec 4) (s : State) :
    (s.wentTo c r).stat = s.polled.stat := rfl
@[simp] theorem State.wentTo_seq (c : BitVec 8) (r : BitVec 4) (s : State) :
    (s.wentTo c r).seq = s.seq := rfl
@[simp] theorem State.wentTo_dir (c : BitVec 8) (r : BitVec 4) (s : State) :
    (s.wentTo c r).dir = .output := rfl
@[simp] theorem State.wentTo_d (c : BitVec 8) (r : BitVec 4) (s : State) :
    (s.wentTo c r).d = 0 := rfl
@[simp] theorem State.wentTo_rs (c : BitVec 8) (r : BitVec 4) (s : State) :
    (s.wentTo c r).rs = false := rfl
@[simp] theorem State.wentTo_rw (c : BitVec 8) (r : BitVec 4) (s : State) :
    (s.wentTo c r).rw = false := rfl
@[simp] theorem State.wentTo_e (c : BitVec 8) (r : BitVec 4) (s : State) :
    (s.wentTo c r).e = false := rfl
@[simp] theorem State.wentTo_pwmEn (c : BitVec 8) (r : BitVec 4) (s : State) :
    (s.wentTo c r).pwmEn = s.pwmEn := rfl
@[simp] theorem State.wentTo_pwmCmp (c : BitVec 8) (r : BitVec 4) (s : State) :
    (s.wentTo c r).pwmCmp = s.pwmCmp := rfl
@[simp] theorem State.wentTo_bl (c : BitVec 8) (r : BitVec 4) (s : State) :
    (s.wentTo c r).bl = s.bl := rfl
@[simp] theorem State.wentTo_trace (c : BitVec 8) (r : BitVec 4) (s : State) :
    (s.wentTo c r).trace = s.polled.trace ++
      (unitsOf s.cfg.width (setAddressByte s.cfg ((addr s.cfg c r).getD 0))).map (Event.wr false) := rfl
@[simp] theorem State.wentTo_smp (c : BitVec 8) (r : BitVec 4) (s : State) :
    (s.wentTo c r).smp = s.polled.smp := rfl
@[simp] theorem State.wentTo_smpHigh (c : BitVec 8) (r : BitVec 4) (s : State) :
    (s.wentTo c r).smpHigh = s.polled.smpHigh := rfl
@[simp] theorem State.wentTo_answers (c : BitVec 8) (r : BitVec 4) (s : State) :
    (s.wentTo c r).answers = s.polled.answers := rfl
@[simp] theorem State.wentTo_draws (c : BitVec 8) (r : BitVec 4) (s : State) :
    (s.wentTo c r).draws = s.polled.draws := rfl
@[simp] theorem State.wentTo_host (c : BitVec 8) (r : BitVec 4) (s : State) :
    (s.wentTo c r).host = s.host := rfl
@[simp] theorem State.wentTo_clock (c : BitVec 8) (r : BitVec 4) (s : State) :
    (s.wentTo c r).clock = s.clock := rfl

@[simp] theorem blockReset_cfg (s : State) : (blockReset s).cfg = s.cfg := rfl
@[simp] theorem blockReset_curCol (s : State) : (blockReset s).curCol = 1 := rfl
@[simp] theorem blockReset_curRow (s : State) : (blockReset s).curRow = 1 := rfl
@[simp] theorem blockReset_stat (s : State) : (blockReset s).stat = 0 := rfl
@[simp] theorem blockReset_seq (s : State) : (blockReset s).seq = .idle := rfl
@[simp] theorem blockReset_dir (s : State) : (blockReset s).dir = .output := rfl
@[simp] theorem blockReset_d (s : State) : (blockReset s).d = 0 := rfl
@[simp] theorem blockReset_rs (s : State) : (blockReset s).rs = false := rfl
@[simp] theorem blockReset_rw (s : State) : (blockReset s).rw = false := rfl
@[simp] theorem blockReset_e (s : State) : (blockReset s).e = false := rfl
@[simp] theorem blockReset_pwmEn (s : State) : (blockReset s).pwmEn = false := rfl
@[simp] theorem blockReset_pwmCmp (s : State) : (blockReset s).pwmCmp = 0 := rfl
@[simp] theorem blockReset_bl (s : State) : (blockReset s).bl = .off := rfl
@[simp] theorem blockReset_trace (s : State) : (blockReset s).trace = [] := rfl
@[simp] theorem blockReset_smp (s : State) : (blockReset s).smp = 0 := rfl
@[simp] theorem blockReset_smpHigh (s : State) : (blockReset s).smpHigh = 0 := rfl
@[simp] theorem blockReset_answers (s : State) : (blockReset s).answers = s.answers := rfl
@[simp] theorem blockReset_draws (s : State) : (blockReset s).draws = s.draws := rfl
@[simp] theorem blockReset_host (s : State) : (blockReset s).host = s.host := rfl
@[simp] theorem blockReset_clock (s : State) : (blockReset s).clock = s.clock := rfl

@[simp] theorem State.waiting_smp (op : Instr) (k : Nat) (s : State) :
    (s.waiting op k).smp = toUnit s.cfg.width s.nextStatus := rfl
@[simp] theorem State.waiting_smpHigh (op : Instr) (k : Nat) (s : State) :
    (s.waiting op k).smpHigh = s.polled.smpHigh := rfl
@[simp] theorem State.ready_smp (s : State) : s.ready.smp = toUnit s.cfg.width s.nextStatus := rfl
@[simp] theorem State.ready_smpHigh (s : State) : s.ready.smpHigh = s.polled.smpHigh := rfl

@[simp] theorem State.cursorMoved_cfg (r : Bool) (v : Byte) (s : State) :
    (s.cursorMoved r v).cfg = s.cfg := by
  simp only [State.cursorMoved, apply_ite State.cfg, ite_self]
@[simp] theorem State.cursorMoved_stat (r : Bool) (v : Byte) (s : State) :
    (s.cursorMoved r v).stat = s.stat := by
  simp only [State.cursorMoved, apply_ite State.stat, ite_self]
@[simp] theorem State.cursorMoved_seq (r : Bool) (v : Byte) (s : State) :
    (s.cursorMoved r v).seq = s.seq := by
  simp only [State.cursorMoved, apply_ite State.seq, ite_self]
@[simp] theorem State.cursorMoved_dir (r : Bool) (v : Byte) (s : State) :
    (s.cursorMoved r v).dir = s.dir := by
  simp only [State.cursorMoved, apply_ite State.dir, ite_self]
@[simp] theorem State.cursorMoved_d (r : Bool) (v : Byte) (s : State) :
    (s.cursorMoved r v).d = s.d := by
  simp only [State.cursorMoved, apply_ite State.d, ite_self]
@[simp] theorem State.cursorMoved_rs (r : Bool) (v : Byte) (s : State) :
    (s.cursorMoved r v).rs = s.rs := by
  simp only [State.cursorMoved, apply_ite State.rs, ite_self]
@[simp] theorem State.cursorMoved_rw (r : Bool) (v : Byte) (s : State) :
    (s.cursorMoved r v).rw = s.rw := by
  simp only [State.cursorMoved, apply_ite State.rw, ite_self]
@[simp] theorem State.cursorMoved_e (r : Bool) (v : Byte) (s : State) :
    (s.cursorMoved r v).e = s.e := by
  simp only [State.cursorMoved, apply_ite State.e, ite_self]
@[simp] theorem State.cursorMoved_pwmEn (r : Bool) (v : Byte) (s : State) :
    (s.cursorMoved r v).pwmEn = s.pwmEn := by
  simp only [State.cursorMoved, apply_ite State.pwmEn, ite_self]
@[simp] theorem State.cursorMoved_pwmCmp (r : Bool) (v : Byte) (s : State) :
    (s.cursorMoved r v).pwmCmp = s.pwmCmp := by
  simp only [State.cursorMoved, apply_ite State.pwmCmp, ite_self]
@[simp] theorem State.cursorMoved_bl (r : Bool) (v : Byte) (s : State) :
    (s.cursorMoved r v).bl = s.bl := by
  simp only [State.cursorMoved, apply_ite State.bl, ite_self]
@[simp] theorem State.cursorMoved_trace (r : Bool) (v : Byte) (s : State) :
    (s.cursorMoved r v).trace = s.trace := by
  simp only [State.cursorMoved, apply_ite State.trace, ite_self]
@[simp] theorem State.cursorMoved_smp (r : Bool) (v : Byte) (s : State) :
    (s.cursorMoved r v).smp = s.smp := by
  simp only [State.cursorMoved, apply_ite State.smp, ite_self]
@[simp] theorem State.cursorMoved_smpHigh (r : Bool) (v : Byte) (s : State) :
    (s.cursorMoved r v).smpHigh = s.smpHigh := by
  simp only [State.cursorMoved, apply_ite State.smpHigh, ite_self]
@[simp] theorem State.cursorMoved_answers (r : Bool) (v : Byte) (s : State) :
    (s.cursorMoved r v).answers = s.answers := by
  simp only [State.cursorMoved, apply_ite State.answers, ite_self]
@[simp] theorem State.cursorMoved_draws (r : Bool) (v : Byte) (s : State) :
    (s.cursorMoved r v).draws = s.draws := by
  simp only [State.cursorMoved, apply_ite State.draws, ite_self]
@[simp] theorem State.cursorMoved_host (r : Bool) (v : Byte) (s : State) :
    (s.cursorMoved r v).host = s.host := by
  simp only [State.cursorMoved, apply_ite State.host, ite_self]
@[simp] theorem State.cursorMoved_clock (r : Bool) (v : Byte) (s : State) :
    (s.cursorMoved r v).clock = s.clock := by
  simp only [State.cursorMoved, apply_ite State.clock, ite_self]

theorem State.cursorMoved_curCol (r : Bool) (v : Byte) (s : State) :
    (s.cursorMoved r v).curCol =
      if r then s.curCol + 1 else if v = s.cfg.cmdClear ∨ v = s.cfg.cmdHome then 1 else s.curCol := by
  simp only [State.cursorMoved, apply_ite State.curCol]

theorem State.cursorMoved_curRow (r : Bool) (v : Byte) (s : State) :
    (s.cursorMoved r v).curRow =
      if r then s.curRow else if v = s.cfg.cmdClear ∨ v = s.cfg.cmdHome then 1 else s.curRow := by
  simp only [State.cursorMoved, apply_ite State.curRow]

@[simp] theorem State.backlit_cfg (p : BitVec 8) (s : State) : (s.backlit p).cfg = s.cfg := by
  simp only [State.backlit, apply_ite State.cfg, ite_self]
@[simp] theorem State.backlit_curCol (p : BitVec 8) (s : State) : (s.backlit p).curCol = s.curCol := by
  simp only [State.backlit, apply_ite State.curCol, ite_self]
@[simp] theorem State.backlit_curRow (p : BitVec 8) (s : State) : (s.backlit p).curRow = s.curRow := by
  simp only [State.backlit, apply_ite State.curRow, ite_self]
@[simp] theorem State.backlit_stat (p : BitVec 8) (s : State) : (s.backlit p).stat = s.stat := by
  simp only [State.backlit, apply_ite State.stat, ite_self]
@[simp] theorem State.backlit_seq (p : BitVec 8) (s : State) : (s.backlit p).seq = s.seq := by
  simp only [State.backlit, apply_ite State.seq, ite_self]
@[simp] theorem State.backlit_dir (p : BitVec 8) (s : State) : (s.backlit p).dir = s.dir := by
  simp only [State.backlit, apply_ite State.dir, ite_self]
@[simp] theorem State.backlit_d (p : BitVec 8) (s : State) : (s.backlit p).d = s.d := by
  simp only [State.backlit, apply_ite State.d, ite_self]
@[simp] theorem State.backlit_rs (p : BitVec 8) (s : State) : (s.backlit p).rs = s.rs := by
  simp only [State.backlit, apply_ite State.rs, ite_self]
@[simp] theorem State.backlit_rw (p : BitVec 8) (s : State) : (s.backlit p).rw = s.rw := by
  simp only [State.backlit, apply_ite State.rw, ite_self]
@[simp] theorem State.backlit_e (p : BitVec 8) (s : State) : (s.backlit p).e = s.e := by
  simp only [State.backlit, apply_ite State.e, ite_self]
@[simp] theorem State.backlit_trace (p : BitVec 8) (s : State) : (s.backlit p).trace = s.trace := by
  simp only [State.backlit, apply_ite State.trace, ite_self]
@[simp] theorem State.backlit_smp (p : BitVec 8) (s : State) : (s.backlit p).smp = s.smp := by
  simp only [State.backlit, apply_ite State.smp, ite_self]
@[simp] theorem State.backlit_smpHigh (p : BitVec 8) (s : State) : (s.backlit p).smpHigh = s.smpHigh := by
  simp only [State.backlit, apply_ite State.smpHigh, ite_self]
@[simp] theorem State.backlit_answers (p : BitVec 8) (s : State) : (s.backlit p).answers = s.answers := by
  simp only [State.backlit, apply_ite State.answers, ite_self]
@[simp] theorem State.backlit_draws (p : BitVec 8) (s : State) : (s.backlit p).draws = s.draws := by
  simp only [State.backlit, apply_ite State.draws, ite_self]
@[simp] theorem State.backlit_host (p : BitVec 8) (s : State) : (s.backlit p).host = s.host := by
  simp only [State.backlit, apply_ite State.host, ite_self]
@[simp] theorem State.backlit_clock (p : BitVec 8) (s : State) : (s.backlit p).clock = s.clock := by
  simp only [State.backlit, apply_ite State.clock, ite_self]

@[simp] theorem State.backlit_nextStatus (p : BitVec 8) (s : State) : (s.backlit p).nextStatus = s.nextStatus := by
  simp [State.nextStatus, State.sampleUnit, State.drawn]

@[simp] theorem State.backlit_answersBusy (p : BitVec 8) (s : State) : (s.backlit p).answersBusy = s.answersBusy := by
  simp [State.answersBusy]

@[simp] theorem Micro.apply_setDir (v : Dir) (s : State) :
    (Micro.setDir v).apply s = { s with dir := v } := rfl
@[simp] theorem Micro.apply_setRs (v : Bool) (s : State) :
    (Micro.setRs v).apply s = { s with rs := v } := rfl
@[simp] theorem Micro.apply_setRw (v : Bool) (s : State) :
    (Micro.setRw v).apply s = { s with rw := v } := rfl
@[simp] theorem Micro.apply_setE (v : Bool) (s : State) :
    (Micro.setE v).apply s = { s with e := v } := rfl
@[simp] theorem Micro.apply_loadD (u : Byte) (s : State) :
    (Micro.loadD u).apply s = { s with d := u } := rfl
@[simp] theorem Micro.apply_emitWrite (s : State) :
    (Micro.emitWrite).apply s = { s with trace := s.trace ++ [.wr s.rs s.d] } := rfl
@[simp] theorem Micro.apply_sample (s : State) :
    (Micro.sample).apply s = { s.drawn with smp := s.sampleUnit } := rfl
@[simp] theorem Micro.apply_emitRead (s : State) :
    (Micro.emitRead).apply s = { s with trace := s.trace ++ [.rd s.rs s.smp] } := rfl
@[simp] theorem Micro.apply_keepHigh (s : State) :
    (Micro.keepHigh).apply s = { s with smpHigh := s.smp } := rfl
@[simp] theorem Micro.apply_statWide (s : State) :
    (Micro.statWide).apply s = { s with stat := s.smp } := rfl
@[simp] theorem Micro.apply_statNarrow (s : State) :
    (Micro.statNarrow).apply s = { s with stat := joinNibbles s.smpHigh s.smp } := rfl
@[simp] theorem Micro.apply_wrapTest (s : State) : Micro.wrapTest.apply s = s := rfl

@[simp] theorem Micro.apply_loop (b : Nat) (s : State) :
    (Micro.loop b).apply s = s := rfl
@[simp] theorem Micro.apply_incCol (s : State) :
    (Micro.incCol).apply s = { s with curCol := s.curCol + 1 } := rfl
@[simp] theorem Micro.apply_setCol (v : BitVec 8) (s : State) :
    (Micro.setCol v).apply s = { s with curCol := v } := rfl
@[simp] theorem Micro.apply_setRow (v : BitVec 4) (s : State) :
    (Micro.setRow v).apply s = { s with curRow := v } := rfl
@[simp] theorem Micro.apply_setPwmEn (v : Bool) (s : State) :
    (Micro.setPwmEn v).apply s = { s with pwmEn := v } := rfl
@[simp] theorem Micro.apply_setPwmCmp (v : Nat) (s : State) :
    (Micro.setPwmCmp v).apply s = { s with pwmCmp := v } := rfl
@[simp] theorem Micro.apply_setBl (v : Level) (s : State) :
    (Micro.setBl v).apply s = { s with bl := v } := rfl

theorem State.busy_eq_false {s : State} : s.busy = false ↔ s.seq = .idle := by
  simp [State.busy]

theorem State.busy_of_idle {s : State} (h : s.seq = .idle) : s.busy = false := State.busy_eq_false.2 h

end Sys2Proof.Machine
end

