-- ==== Sys2Proof/Laws/Ops.lean ====
section
/-! SUPPORT. One lemma per shared operation: what it leaves, said once, so that no later proof unfolds the
micro-steps. -/

namespace Sys2Proof.Machine

/-! ## Nibbles and units -/

@[simp] theorem joinNibbles_high_low (v : Byte) : joinNibbles (highNibble v) (lowNibble v) = v := by
  revert v; decide

@[simp] theorem lowNibble_lowNibble (v : Byte) : lowNibble (lowNibble v) = lowNibble v := by
  revert v; decide

@[simp] theorem lowNibble_highNibble (v : Byte) : lowNibble (highNibble v) = highNibble v := by
  revert v; decide

theorem highNibble_lowNibble (v : Byte) : highNibble (lowNibble v) = 0 := by
  revert v; decide

theorem highNibble_shift (v : Byte) : highNibble (v <<< 4) = lowNibble v := by
  revert v; decide

theorem lowNibble_shift (v : Byte) : lowNibble (v <<< 4) = 0 := by
  revert v; decide

/-- Joining two nibbles loses neither. -/
theorem highNibble_join (h l : Byte) : highNibble (joinNibbles (lowNibble h) (lowNibble l)) = lowNibble h := by
  have e : highNibble (joinNibbles (lowNibble h) (lowNibble l)) =
      highNibble (lowNibble h <<< 4) ||| highNibble (lowNibble l) := by
    simp only [highNibble, joinNibbles, BitVec.ushiftRight_or_distrib]
  rw [e, highNibble_shift, highNibble_lowNibble]; simp

theorem lowNibble_join (h l : Byte) : lowNibble (joinNibbles (lowNibble h) (lowNibble l)) = lowNibble l := by
  have e : lowNibble (joinNibbles (lowNibble h) (lowNibble l)) =
      lowNibble (lowNibble h <<< 4) ||| lowNibble (lowNibble l) := by
    simp only [lowNibble, joinNibbles, BitVec.and_or_distrib_right]
  rw [e, lowNibble_shift]; simp

@[simp] theorem toUnit_toUnit (w : BusWidth) (v : Byte) : toUnit w (toUnit w v) = toUnit w v := by
  cases w <;> simp [toUnit]

/-- Every unit of a byte fits the bus. -/
theorem toUnit_of_mem_unitsOf {w : BusWidth} {v u : Byte} (h : u ∈ unitsOf w v) : toUnit w u = u := by
  cases w <;> simp [unitsOf] at h <;> (try obtain rfl | rfl := h) <;> simp [toUnit]

/-- The bus carries a unit exactly when it fits. -/
theorem toUnit_of_fitsBus {w : BusWidth} {u : Byte} (h : fitsBus w u = true) : toUnit w u = u := by
  cases w
  · revert u; decide
  · rfl

/-! ## Running micro-steps -/

/-- A micro-step that tests nothing. -/
def Micro.straight : Micro → Bool
  | .loop _ => false
  | .wrapTest => false
  | _ => true

/-- The effect of a run of micro-steps without a test. -/
def applyAll (p : List Micro) (s : State) : State := p.foldl (fun t m => m.apply t) s

@[simp] theorem applyAll_nil (s : State) : applyAll [] s = s := rfl

@[simp] theorem applyAll_cons (m : Micro) (p : List Micro) (s : State) :
    applyAll (m :: p) s = applyAll p (m.apply s) := rfl

theorem applyAll_append (p q : List Micro) (s : State) : applyAll (p ++ q) s = applyAll q (applyAll p s) := by
  simp [applyAll, List.foldl_append]

@[simp] theorem runFrom_nil (op : Instr) (k : Nat) (s : State) :
    runFrom op k [] s = { s with seq := .idle } := by
  simp [runFrom]

theorem runFrom_cons {m : Micro} (hm : m.straight = true) (op : Instr) (k : Nat) (p : List Micro) (s : State) :
    runFrom op k (m :: p) s = runFrom op (k + 1) p (m.apply s) := by
  cases m <;> first | rfl | simp [Micro.straight] at hm

theorem runFrom_loop (op : Instr) (k back : Nat) (p : List Micro) (s : State) :
    runFrom op k (.loop back :: p) s =
      if s.busyFlag then { s with seq := .run op (k - back) } else runFrom op (k + 1) p s := by
  simp [runFrom]

theorem runFrom_wrapTest (op : Instr) (k : Nat) (p : List Micro) (s : State) :
    runFrom op k (.wrapTest :: p) s = if s.wrapMoves then runFrom op (k + 1) p s else { s with seq := .idle } := by
  simp [runFrom]

/-- Straight code runs to its end whatever follows. -/
theorem runFrom_append {p : List Micro} (hp : p.all Micro.straight = true) (op : Instr) (k : Nat)
    (q : List Micro) (s : State) :
    runFrom op k (p ++ q) s = runFrom op (k + p.length) q (applyAll p s) := by
  induction p generalizing k s with
  | nil => simp
  | cons m p ih =>
    simp only [List.all_cons, Bool.and_eq_true] at hp
    rw [List.cons_append, runFrom_cons hp.1, ih hp.2, applyAll_cons, List.length_cons]
    congr 1; omega

/-- Straight code ends the operation. -/
theorem runFrom_straight {p : List Micro} (hp : p.all Micro.straight = true) (op : Instr) (k : Nat) (s : State) :
    runFrom op k p s = { applyAll p s with seq := .idle } := by
  have h := runFrom_append hp op k [] s
  rwa [List.append_nil, runFrom_nil] at h

/-! ## The primitives -/

theorem writeByte_straight (w : BusWidth) (rs : Bool) (v : Byte) :
    (writeByte w rs v).all Micro.straight = true := by
  cases w <;> rfl

theorem cursorEffect_straight (c : Cfg) (rs : Bool) (v : Byte) :
    (cursorEffect c rs v).all Micro.straight = true := by
  unfold cursorEffect; split
  · rfl
  · split <;> rfl

theorem transferRaw_straight (c : Cfg) (rs : Bool) (v : Byte) :
    (transferRaw c rs v).all Micro.straight = true := by
  simp [transferRaw, List.all_append, writeByte_straight, cursorEffect_straight]

/-- `WriteByte` (40_bus_transport.md rule R77). -/
theorem applyAll_writeByte (rs : Bool) (v : Byte) (s : State) :
    applyAll (writeByte s.cfg.width rs v) s = s.written rs v := by
  unfold State.written
  cases hw : s.cfg.width <;> simp [writeByte, writeUnit, strobe, unitsOf]

/-- `CursorEffect` (40_bus_transport.md rule R78). -/
theorem applyAll_cursorEffect (rs : Bool) (v : Byte) (s : State) :
    applyAll (cursorEffect s.cfg rs v) s = s.cursorMoved rs v := by
  unfold cursorEffect State.cursorMoved
  split
  · rfl
  · split <;> rfl

/-- The body of XFERRAW (40_bus_transport.md rule R80). -/
theorem applyAll_transferRaw (rs : Bool) (v : Byte) (s : State) :
    applyAll (transferRaw s.cfg rs v) s = (s.written rs v).cursorMoved rs v := by
  rw [transferRaw, applyAll_append, applyAll_writeByte]
  exact applyAll_cursorEffect rs v (s.written rs v)

theorem tail_tail_eq_drop (l : List Byte) : l.tail.tail = l.drop 2 := by
  rcases l with _ | ⟨_, _ | ⟨_, _⟩⟩ <;> rfl

/-- The body of WAITRDY, whatever follows it (41_busy_flag_sync.md rule R90): a poll that answers busy leaves the
block waiting at the loop's start, one that answers ready lets it go on. -/
theorem runFrom_waitReady (op : Instr) (k : Nat) (q : List Micro) (s : State) :
    runFrom op k (waitReady s.cfg.width ++ q) s =
      if s.answersBusy then s.waiting op (k + 3)
      else runFrom op (k + (waitReady s.cfg.width).length) q s.ready := by
  unfold State.waiting State.ready State.polled State.answersBusy State.nextStatus
  cases hw : s.cfg.width <;>
    simp [waitReady, readStatus, readUnit, runFrom, State.busyFlag, State.sampleUnit, State.drawn, hw, unitsOf,
      toUnit, BusWidth.unitsPerByte, highNibble_join, lowNibble_join, tail_tail_eq_drop, Nat.add_assoc]

/-- The poll loop entered again, the lines as `waiting` left them (41_busy_flag_sync.md rule R93). -/
theorem runFrom_poll_again (op : Instr) (k : Nat) (q : List Micro) (s : State) (hd : s.dir = .input)
    (hr : s.rs = false) (hw : s.rw = true) :
    runFrom op (k + 3) ((waitReady s.cfg.width ++ q).drop 3) s =
      if s.answersBusy then s.waiting op (k + 3)
      else runFrom op (k + (waitReady s.cfg.width).length) q s.ready := by
  unfold State.waiting State.ready State.polled State.answersBusy State.nextStatus
  cases hc : s.cfg.width <;>
    simp [waitReady, readStatus, readUnit, runFrom, State.busyFlag, State.sampleUnit, State.drawn, hc, unitsOf,
      toUnit, BusWidth.unitsPerByte, highNibble_join, lowNibble_join, hd, hr, hw, tail_tail_eq_drop, Nat.add_assoc]

/-- The body of XFER (40_bus_transport.md rule R81), followed by straight code. -/
theorem runFrom_transfer (op : Instr) (k : Nat) (rs : Bool) (v : Byte) {q : List Micro}
    (hq : q.all Micro.straight = true) (s : State) :
    runFrom op k (transfer s.cfg rs v ++ q) s =
      if s.answersBusy then s.waiting op (k + 3)
      else { applyAll q (s.transferred rs v) with seq := .idle } := by
  rw [transfer, List.append_assoc, runFrom_waitReady]
  have hc : s.cfg = s.ready.cfg := rfl
  split
  · rfl
  · rw [runFrom_straight (by simp [List.all_append, transferRaw_straight, hq]), applyAll_append, hc,
      applyAll_transferRaw]
    rfl

/-- Accepting an operation (10_state.md rules R18 and R20): it runs when `SEQ = Idle`, else it is refused. -/
theorem operate_of_idle {op : Instr} {p : List Micro} {s : State} (h : s.seq = .idle) :
    operate op p s = .next (runFrom op 0 p s) := by
  simp [operate, State.busy_of_idle h]

theorem operate_of_busy {op : Instr} {p : List Micro} {s : State} (h : s.seq ≠ .idle) :
    operate op p s = .refused .opWhileBusy := by
  simp [operate, State.busy, h]

/-- All that accepting an operation can do. -/
theorem operate_next {op : Instr} {p : List Micro} {s t : State} (h : operate op p s = .next t) :
    s.seq = .idle ∧ t = runFrom op 0 p s := by
  by_cases hs : s.seq = .idle
  · rw [operate_of_idle hs] at h; exact ⟨hs, by injection h with h; exact h.symm⟩
  · rw [operate_of_busy hs] at h; cases h

end Sys2Proof.Machine
end

