-- ==== Sys2Proof/Laws/Meanings.lean ====
section
/-! SUPPORT. What each operation's pseudocode leaves, what `exec` can answer, what a waiting operation goes on
to, and what the port does at a step: said once each, for later proofs to cite. -/

namespace Sys2Proof.Machine

/-! ## The pseudocodes -/

/-- The pseudocode of WAITRDY run from its start. -/
theorem runFrom_waitrdy (op : Instr) (s : State) :
    runFrom op 0 (waitReady s.cfg.width) s =
      if s.answersBusy then s.waiting op 3 else { s.ready with seq := .idle } := by
  have h := runFrom_waitReady op 0 [] s
  simp only [List.append_nil] at h
  rw [h]; simp

/-- The pseudocode of XFER run from its start. -/
theorem runFrom_xfer (op : Instr) (rs : Bool) (v : Byte) (s : State) :
    runFrom op 0 (transfer s.cfg rs v) s =
      if s.answersBusy then s.waiting op 3 else { s.transferred rs v with seq := .idle } := by
  have h := runFrom_transfer op 0 rs v (q := []) rfl s
  simp only [List.append_nil] at h
  rw [h]; simp

/-- The pseudocode of WRN. -/
theorem applyAll_wrnCode (rs : Bool) (u : Byte) (s : State) :
    applyAll (wrnCode rs u) s =
      { s with rs := rs, d := 0, e := false, trace := s.trace ++ [.wr rs u] } := by
  simp [wrnCode, writeUnit, strobe]

/-- Three register writes, then whatever follows. -/
theorem runFrom_three {a b d : Micro} (ha : a.straight = true) (hb : b.straight = true)
    (hd : d.straight = true) (op : Instr) (k : Nat) (p : List Micro) (s : State) :
    runFrom op k ([a, b, d] ++ p) s = runFrom op (k + 3) p (d.apply (b.apply (a.apply s))) := by
  have h := runFrom_append (p := [a, b, d]) (by simp [ha, hb, hd]) op k p s
  simpa using h

/-- The pseudocode of GOTO run for a cell of the geometry, `k` micro-steps of its operation done. -/
theorem runFrom_goto {s : State} {col : BitVec 8} {row : BitVec 4} {a : Nat} (ha : addr s.cfg col row = some a)
    (op : Instr) (k : Nat) :
    runFrom op k (transfer s.cfg false (setAddressByte s.cfg a) ++ [.setCol (colNorm col), .setRow row]) s =
      if s.answersBusy then s.waiting op (k + 3) else { s.wentTo col row with seq := .idle } := by
  rw [runFrom_transfer _ _ _ _ rfl]
  split
  · rfl
  · ext <;> simp [State.transferred, ha]

/-- All that GOTO can do on an idle block (42_ddram_address.md rules R101 and R102). -/
theorem execGoto_of_idle {s : State} (hs : s.seq = .idle) (col : BitVec 8) (row : BitVec 4) :
    execGoto col row s =
      match addr s.cfg col row with
      | some _ =>
        .next (if s.answersBusy then s.waiting (.goto col row) 3 else s.finished (.goto col row))
      | none => .refused .configurationMismatch := by
  cases ha : addr s.cfg col row with
  | none => simp only [execGoto, gotoCode, ha, Option.map_none]
  | some a =>
    simp only [execGoto, gotoCode, ha, Option.map_some, operate_of_idle hs, State.finished]
    rw [runFrom_goto ha]

/-- The pseudocode of WRAP where it moves (42_ddram_address.md rule R104). -/
theorem runFrom_wrap_moves {s : State} {a : Nat} (hm : s.wrapMoves = true)
    (ha : addr s.cfg 1 (s.curRow + 1) = some a) :
    runFrom .wrap 0 (wrapCode s.cfg s.curRow) s =
      if s.answersBusy then s.waiting .wrap 4 else s.finished .wrap := by
  simp only [wrapCode, gotoCode, ha, Option.map_some, Option.getD_some, runFrom_wrapTest, hm, if_true]
  rw [runFrom_goto ha]
  rfl

/-- The pseudocode of WRAP where it does not move (42_ddram_address.md rule R104). -/
theorem runFrom_wrap_stays {s : State} (hm : s.wrapMoves = false) :
    runFrom .wrap 0 (wrapCode s.cfg s.curRow) s = { s with seq := .idle } := by
  simp [wrapCode, runFrom_wrapTest, hm]

/-- All that WRAP can do on an idle block with `FEAT_WRAP` (42_ddram_address.md rule R104). -/
theorem execWrap_of_idle {s : State} (hs : s.seq = .idle) (hf : s.cfg.featWrap = true) :
    execWrap s =
      if s.wrapMoves then
        match addr s.cfg 1 (s.curRow + 1) with
        | some _ => .next (if s.answersBusy then s.waiting .wrap 4 else s.finished .wrap)
        | none => .refused .configurationMismatch
      else .next s := by
  simp only [execWrap, hf, if_true]
  cases hm : s.wrapMoves with
  | false => simp [operate_of_idle hs, runFrom_wrap_stays hm, ← hs]
  | true =>
    cases ha : addr s.cfg 1 (s.curRow + 1) with
    | none => simp
    | some a => simp [operate_of_idle hs, runFrom_wrap_moves hm ha]

/-- The pseudocode of BRIGHT in its two edge cases. -/
theorem runFrom_bright_edge {pct : BitVec 8} (hp : 100 ≤ pct.toNat ∨ pct = 0) (s : State) :
    runFrom (.bright pct) 0 (brightCode s.cfg pct) s =
      if s.answersBusy then (s.backlit pct).waiting (.bright pct) 6
      else (s.backlit pct).finished (.bright pct) := by
  rw [← State.backlit_answersBusy pct s]
  by_cases h : 100 ≤ pct.toNat
  · simp only [brightCode, h, if_true, State.backlit, State.finished, displayCommand?]
    rw [runFrom_three rfl rfl rfl]
    have e := runFrom_transfer (.bright pct) 3 false s.cfg.cmdDisplayOn (q := []) rfl
      { s with pwmEn := false, pwmCmp := s.cfg.pwmTop, bl := .on }
    simpa using e
  · obtain rfl : pct = 0 := hp.resolve_left h
    have z : (0 : BitVec 8).toNat = 0 := rfl
    simp only [brightCode, State.backlit, State.finished, displayCommand?, z, Nat.reduceLeDiff, if_false,
      if_true, Nat.lt_one_iff]
    rw [runFrom_three rfl rfl rfl]
    have e := runFrom_transfer (.bright 0) 3 false s.cfg.cmdDisplayOff (q := []) rfl
      { s with pwmEn := false, pwmCmp := 0, bl := .off }
    simpa using e

/-- The pseudocode of BRIGHT in between. -/
theorem runFrom_bright_between {pct : BitVec 8} (h1 : ¬ 100 ≤ pct.toNat) (h0 : pct ≠ 0) (s : State) :
    runFrom (.bright pct) 0 (brightCode s.cfg pct) s = { s.backlit pct with seq := .idle } := by
  have hn : ¬ pct.toNat < 1 := fun h => h0 (BitVec.eq_of_toNat_eq (by simpa using h))
  simp only [brightCode, h1, hn, if_false, State.backlit, h0]
  rfl

/-! ## What `exec` can answer -/

/-- The next state of each operation accepted by an idle block `s`: the whole effect, or, where the operation
polls and the answer is busy, the wait. -/
inductive Result (s : State) : Instr → State → Prop
  | waitrdy : Result s .waitrdy (if s.answersBusy then s.waiting .waitrdy 3 else s.finished .waitrdy)
  | wrn (rs : Bool) (u : Byte) (h : fitsBus s.cfg.width u = true) :
      Result s (.wrn rs u) { s with rs := rs, d := 0, e := false, trace := s.trace ++ [.wr rs u] }
  | xferraw (rs : Bool) (v : Byte) : Result s (.xferraw rs v) ((s.written rs v).cursorMoved rs v)
  | xfer (rs : Bool) (v : Byte) :
      Result s (.xfer rs v) (if s.answersBusy then s.waiting (.xfer rs v) 3 else s.finished (.xfer rs v))
  | goto (col : BitVec 8) (row : BitVec 4) (a : Nat) (h : addr s.cfg col row = some a) :
      Result s (.goto col row)
        (if s.answersBusy then s.waiting (.goto col row) 3 else s.finished (.goto col row))
  | wrapMoves (a : Nat) (hf : s.cfg.featWrap = true) (hm : s.wrapMoves = true)
      (h : addr s.cfg 1 (s.curRow + 1) = some a) :
      Result s .wrap (if s.answersBusy then s.waiting .wrap 4 else s.finished .wrap)
  | wrapStays (hf : s.cfg.featWrap = true) (hm : s.wrapMoves = false) : Result s .wrap s
  | brightBetween (pct : BitVec 8) (h1 : ¬ 100 ≤ pct.toNat) (h0 : pct ≠ 0) :
      Result s (.bright pct) (s.backlit pct)
  | brightEdge (pct : BitVec 8) (h : 100 ≤ pct.toNat ∨ pct = 0) :
      Result s (.bright pct)
        (if s.answersBusy then (s.backlit pct).waiting (.bright pct) 6
          else (s.backlit pct).finished (.bright pct))

/-- GOTO answers a next state in one way only. -/
theorem execGoto_next {s t : State} {col : BitVec 8} {row : BitVec 4} (h : execGoto col row s = .next t) :
    s.seq = .idle ∧ ∃ a, addr s.cfg col row = some a ∧
      t = if s.answersBusy then s.waiting (.goto col row) 3 else s.finished (.goto col row) := by
  cases ha : addr s.cfg col row with
  | none => simp only [execGoto, gotoCode, ha, Option.map_none] at h; cases h
  | some a =>
    have hs : s.seq = .idle := by
      simp only [execGoto, gotoCode, ha, Option.map_some] at h
      exact (operate_next h).1
    rw [execGoto_of_idle hs, ha] at h
    exact ⟨hs, a, rfl, by injection h with h; exact h.symm⟩

/-- WRAP answers a next state in two ways: it moves, or it leaves the block as it is. -/
theorem execWrap_next {s t : State} (h : execWrap s = .next t) :
    s.seq = .idle ∧ s.cfg.featWrap = true ∧
      ((s.wrapMoves = true ∧ (∃ a, addr s.cfg 1 (s.curRow + 1) = some a) ∧
          t = if s.answersBusy then s.waiting .wrap 4 else s.finished .wrap) ∨
        (s.wrapMoves = false ∧ t = s)) := by
  have hsf : s.seq = .idle ∧ s.cfg.featWrap = true := by
    simp only [execWrap] at h
    split at h
    · rename_i hf
      split at h
      · cases h
      · exact ⟨(operate_next h).1, hf⟩
    · cases h
  obtain ⟨hs, hf⟩ := hsf
  refine ⟨hs, hf, ?_⟩
  rw [execWrap_of_idle hs hf] at h
  cases hm : s.wrapMoves with
  | false => simp only [hm, Bool.false_eq_true, if_false] at h; injection h with h; exact .inr ⟨rfl, h.symm⟩
  | true =>
    simp only [hm, if_true] at h
    split at h
    · rename_i a ha; injection h with h; exact .inl ⟨rfl, ⟨a, ha⟩, h.symm⟩
    · cases h

/-- Inversion of `exec`: a next state comes from an idle block, and is the operation's result. -/
theorem exec_result {s t : State} {i : Instr} (h : exec i s = .next t) : s.seq = .idle ∧ Result s i t := by
  cases i with
  | waitrdy =>
    obtain ⟨hs, rfl⟩ := operate_next h
    exact ⟨hs, by rw [runFrom_waitrdy]; exact .waitrdy⟩
  | wrn rs u =>
    simp only [exec, execWrn] at h
    split at h
    · rename_i hf
      obtain ⟨hs, rfl⟩ := operate_next h
      refine ⟨hs, ?_⟩
      rw [runFrom_straight rfl, applyAll_wrnCode, ← hs]
      exact .wrn rs u hf
    · cases h
  | xferraw rs v =>
    obtain ⟨hs, rfl⟩ := operate_next h
    refine ⟨hs, ?_⟩
    rw [runFrom_straight (transferRaw_straight _ rs v), applyAll_transferRaw]
    have e : ({ (s.written rs v).cursorMoved rs v with seq := .idle } : State) =
        (s.written rs v).cursorMoved rs v := by
      ext <;> simp [hs]
    rw [e]; exact .xferraw rs v
  | xfer rs v =>
    obtain ⟨hs, rfl⟩ := operate_next h
    exact ⟨hs, by rw [runFrom_xfer]; exact .xfer rs v⟩
  | goto col row =>
    obtain ⟨hs, a, ha, rfl⟩ := execGoto_next h
    exact ⟨hs, .goto col row a ha⟩
  | wrap =>
    obtain ⟨hs, hf, ⟨hm, ⟨a, ha⟩, rfl⟩ | ⟨hm, rfl⟩⟩ := execWrap_next h
    · exact ⟨hs, .wrapMoves a hf hm ha⟩
    · exact ⟨hs, .wrapStays hf hm⟩
  | bright pct =>
    obtain ⟨hs, rfl⟩ := operate_next h
    refine ⟨hs, ?_⟩
    by_cases hp : 100 ≤ pct.toNat ∨ pct = 0
    · rw [runFrom_bright_edge hp]; exact .brightEdge pct hp
    · obtain ⟨h1, h0⟩ := not_or.1 hp
      have e : ({ s.backlit pct with seq := .idle } : State) = s.backlit pct := by
        ext <;> simp [hs]
      rw [runFrom_bright_between h1 h0, e]; exact .brightBetween pct h1 h0

/-! ## A waiting operation -/

/-- The loop of XFER's pseudocode entered again, `n` register writes standing before it. -/
theorem runFrom_transfer_again (op : Instr) (n : Nat) (rs : Bool) (v : Byte) {q : List Micro}
    (hq : q.all Micro.straight = true) {s : State} (hw : WaitLines s) :
    runFrom op (n + 3) ((transfer s.cfg rs v ++ q).drop 3) s =
      if s.answersBusy then s.waiting op (n + 3)
      else { applyAll q (s.transferred rs v) with seq := .idle } := by
  rw [transfer, List.append_assoc, runFrom_poll_again op n _ s hw.1 hw.2.2.1 hw.2.1]
  have hc : s.cfg = s.ready.cfg := rfl
  split
  · rfl
  · rw [runFrom_straight (by simp [List.all_append, transferRaw_straight, hq]), applyAll_append, hc,
      applyAll_transferRaw]
    rfl

/-- The poll loop of GOTO's pseudocode entered again, `n` micro-steps standing before it. -/
theorem runFrom_goto_again {s : State} {col : BitVec 8} {row : BitVec 4} {a : Nat}
    (ha : addr s.cfg col row = some a) (op : Instr) (n : Nat) (hw : WaitLines s) :
    runFrom op (n + 3)
        ((transfer s.cfg false (setAddressByte s.cfg a) ++
          [Micro.setCol (colNorm col), Micro.setRow row]).drop 3) s =
      if s.answersBusy then s.waiting op (n + 3) else { s.wentTo col row with seq := .idle } := by
  rw [runFrom_transfer_again _ _ _ _ rfl hw]
  split
  · rfl
  · ext <;> simp [State.transferred, ha]

/-- All that `resume` can do in a state of the machine (41_busy_flag_sync.md rules R90 and R93). -/
theorem resume_of_waiting {s : State} {op : Instr} {k : Nat} (hs : s.seq = .run op k) (hq : SeqOk s) :
    resume s = .next (if s.answersBusy then s.waiting op k else s.finished op) := by
  simp only [SeqOk, hs] at hq
  obtain ⟨hl, hp⟩ := hq
  simp only [resume, hs]
  cases op with
  | waitrdy =>
    simp only [waitPlace?, Option.some.injEq] at hp; subst hp
    have e := runFrom_poll_again .waitrdy 0 [] s hl.1 hl.2.2.1 hl.2.1
    simp only [List.append_nil, Nat.zero_add, runFrom_nil] at e
    simp only [program, e, State.finished]
  | xfer rs v =>
    simp only [waitPlace?, Option.some.injEq] at hp; subst hp
    have e := runFrom_transfer_again (.xfer rs v) 0 rs v (q := []) rfl hl
    simp only [List.append_nil, Nat.zero_add] at e
    simp only [program, e, State.finished, applyAll_nil]
  | goto col row =>
    simp only [waitPlace?] at hp
    split at hp
    · rename_i hsome
      cases hp
      obtain ⟨a, ha⟩ := Option.isSome_iff_exists.1 hsome
      simp only [program, gotoCode, ha, Option.map_some, State.finished]
      rw [← runFrom_goto_again ha (.goto col row) 0 hl]
    · cases hp
  | wrap =>
    simp only [waitPlace?] at hp
    split at hp
    · rename_i hw
      cases hp
      obtain ⟨a, ha⟩ := Option.isSome_iff_exists.1 hw.2.2
      simp only [program, wrapCode, gotoCode, ha, hw.1, if_true, Option.map_some, Option.getD_some,
        State.finished, List.drop_succ_cons]
      rw [← runFrom_goto_again ha .wrap 1 hl]
    · cases hp
  | bright pct =>
    simp only [waitPlace?] at hp
    split at hp
    · rename_i he
      cases hp
      simp only [program, brightCode]
      by_cases h1 : 100 ≤ pct.toNat
      · have e := runFrom_transfer_again (.bright pct) 3 false s.cfg.cmdDisplayOn (q := []) rfl hl
        simp only [List.append_nil, applyAll_nil] at e
        simp only [h1, if_true, State.finished, displayCommand?, Option.getD_some, List.cons_append,
          List.nil_append, List.drop_succ_cons]
        rw [← e]
      · obtain rfl : pct = 0 := he.resolve_left h1
        have z : (0 : BitVec 8).toNat = 0 := rfl
        have e := runFrom_transfer_again (.bright 0) 3 false s.cfg.cmdDisplayOff (q := []) rfl hl
        simp only [List.append_nil, applyAll_nil] at e
        simp only [z, Nat.reduceLeDiff, if_false, if_true, Nat.lt_one_iff, State.finished, displayCommand?,
          Option.getD_some, List.cons_append, List.nil_append, List.drop_succ_cons]
        rw [← e]
    · cases hp
  | wrn _ _ => simp [waitPlace?] at hp
  | xferraw _ _ => simp [waitPlace?] at hp

/-! ## The port -/

/-- While an operation waits, a conforming host changes nothing: the operation goes on (70_reset_and_hazards.md
rule R147). -/
theorem serve_of_busy {s : State} (hb : s.busy = true) (hc : s.hostConforms = true) : serve s = resume s := by
  cases hh : s.host with
  | nil => simp only [serve, hh, hb, if_true]
  | cons a r =>
    cases a with
    | op w => simp only [serve, hh, hb, if_true]
    | delay k => simp only [serve, hh, hb, if_true]
    | opNow w => simp [State.hostConforms, hh, HostAct.conforms] at hc
    | reset => simp [State.hostConforms, hh, HostAct.conforms] at hc

/-- A word is taken by an idle block that decodes it. -/
theorem present_next {w : OpWord} {s u : State} (h : present w s = .next u) :
    s.busy = false ∧ ∃ i, decode s.cfg w = .ok i ∧ exec i s = .next u := by
  simp only [present] at h
  split at h
  · cases h
  · rename_i hb
    split at h
    · rename_i i hi
      exact ⟨by simpa using hb, i, hi, h⟩
    · cases h

/-- A next state of a step is a next state of the port, one tick later. -/
theorem step_next {s t : State} (h : step s = .next t) : ∃ u, serve s = .next u ∧ t = u.tick := by
  simp only [step, serveAndTick] at h
  split at h
  · rename_i u hu
    exact ⟨u, hu, by injection h with h; exact h.symm⟩
  · cases h
  · cases h

/-- The five ways the port answers a next state: a silent host, a delay passed, a reset, a word accepted, an
operation that goes on. -/
theorem serve_cases {s u : State} (h : serve s = .next u) :
    (s.host = [] ∧ s.busy = false ∧ u = s) ∨
    (∃ k rest, s.host = .delay k :: rest ∧ s.busy = false ∧ u = { s with host := rest }) ∨
    (∃ rest, s.host = .reset :: rest ∧ u = blockReset { s with host := rest }) ∨
    (∃ w rest i, (s.host = .op w :: rest ∨ s.host = .opNow w :: rest) ∧ s.busy = false ∧
      decode s.cfg w = .ok i ∧ exec i { s with host := rest } = .next u) ∨
    (s.busy = true ∧ s.hostConforms = true ∧ resume s = .next u) := by
  cases hb : s.busy with
  | true =>
    cases hc : s.hostConforms with
    | true => exact .inr (.inr (.inr (.inr ⟨rfl, rfl, by rwa [serve_of_busy hb hc] at h⟩)))
    | false =>
      cases hh : s.host with
      | nil => simp [State.hostConforms, hh] at hc
      | cons a r =>
        cases a with
        | op w => simp [State.hostConforms, hh, HostAct.conforms] at hc
        | delay k => simp [State.hostConforms, hh, HostAct.conforms] at hc
        | opNow w =>
          simp only [serve, hh] at h
          have hp := (present_next h).1
          exact absurd hb (by simp only [State.busy] at hp ⊢; simp [hp])
        | reset =>
          simp only [serve, hh] at h
          injection h with h
          exact .inr (.inr (.inl ⟨r, rfl, h.symm⟩))
  | false =>
    cases hh : s.host with
    | nil =>
      simp only [serve, hh, hb, Bool.false_eq_true, if_false] at h
      injection h with h
      exact .inl ⟨rfl, rfl, h.symm⟩
    | cons a r =>
      cases a with
      | op w =>
        simp only [serve, hh, hb, Bool.false_eq_true, if_false] at h
        obtain ⟨_, i, hi, he⟩ := present_next h
        exact .inr (.inr (.inr (.inl ⟨w, r, i, .inl rfl, rfl, hi, he⟩)))
      | opNow w =>
        simp only [serve, hh] at h
        obtain ⟨_, i, hi, he⟩ := present_next h
        exact .inr (.inr (.inr (.inl ⟨w, r, i, .inr rfl, rfl, hi, he⟩)))
      | delay k =>
        simp only [serve, hh, hb, Bool.false_eq_true, if_false] at h
        injection h with h
        exact .inr (.inl ⟨k, r, rfl, rfl, h.symm⟩)
      | reset =>
        simp only [serve, hh] at h
        injection h with h
        exact .inr (.inr (.inl ⟨r, rfl, h.symm⟩))

end Sys2Proof.Machine
end

