-- ==== Sys2Proof/Laws/PerInstr.lean ====
section
/-! SUPPORT. A fact about every operation as syntax, one lemma per constructor: bits 15:12 of its word are its
opcode (30_encoding.md rule R56). -/

namespace Sys2Proof.Laws.OpcodeField

/-- Bits 15:12 of the operation's word are its opcode. -/
def Statement (i : Instr) : Prop := (encode i).extractLsb' 12 4 = i.opcode

theorem waitrdy : Statement .waitrdy := by
  unfold Statement; decide

theorem wrap : Statement .wrap := by
  unfold Statement; decide

/-- Format T puts nothing above bit 8 but its opcode. -/
theorem encodeT_opcode (op : OpWord) (rs : Bool) (b : Byte) :
    (encodeT op rs b).extractLsb' 12 4 = op.extractLsb' 12 4 := by
  ext i hi
  simp [encodeT]
  interval_cases i <;> simp

theorem wrn (rs : Bool) (u : Byte) : Statement (.wrn rs u) := encodeT_opcode 0x2000 rs u

theorem xferraw (rs : Bool) (b : Byte) : Statement (.xferraw rs b) := encodeT_opcode 0x3000 rs b

theorem xfer (rs : Bool) (b : Byte) : Statement (.xfer rs b) := encodeT_opcode 0x4000 rs b

theorem goto (col : BitVec 8) (row : BitVec 4) : Statement (.goto col row) := by
  unfold Statement
  ext i hi
  simp [encode, Instr.opcode]
  interval_cases i <;> simp

theorem bright (pct : BitVec 8) : Statement (.bright pct) := by
  unfold Statement
  ext i hi
  simp [encode, Instr.opcode]
  interval_cases i <;> simp

end Sys2Proof.Laws.OpcodeField
end

