-- ==== Sys2Proof/Tests/Slice0.lean ====
section
/-! SUPPORT. The model's own tests, expected results from 95_test_vectors.md, and for every statement with
hypotheses a state and operands that meet them. -/

namespace Sys2Proof.Machine.Tests

/-! ## Small states -/

/-- The default instance on a 4-bit bus. -/
def narrow : Cfg := { Cfg.default with width := .w4 }

/-- A 20 x 4 display on an 8-bit bus. -/
def four : Cfg := { Cfg.default with cols := 20, rows := 4 }

/-- A block under `c`, the cursor at `(col, row)`, the controller's answers to come. -/
def at_ (c : Cfg) (col : BitVec 8) (row : BitVec 4) (answers : List Byte) : State :=
  { State.resetWith c with curCol := col, curRow := row, answers := answers }

/-- The step or operation answered a next state with the property. -/
def after (o : Host.Outcome State Fault Refusal) (p : State → Bool) : Bool :=
  match o with
  | .next t => p t
  | .fault _ => false
  | .refused _ => false

/-- The outcome is this refusal. -/
def refuses (o : Host.Outcome State Fault Refusal) (r : Refusal) : Bool :=
  match o with
  | .next _ => false
  | .fault _ => false
  | .refused q => q == r

/-- What a word decodes to, if anything. -/
def reads (c : Cfg) (w : OpWord) : Option Instr :=
  match decode c w with
  | .ok i => some i
  | .error _ => none

/-- Why a word is refused, if it is. -/
def refusal (c : Cfg) (w : OpWord) : Option Reserved :=
  match decode c w with
  | .ok _ => none
  | .error r => some r

/-! ## WellFormed: an ill-formed term for each check -/

theorem test_wf_wide_unit : (Instr.wrn false 0x13).reserved? narrow = some .wideUnit := by decide
theorem test_wf_narrow_unit : (Instr.wrn false 0x13).reserved? Cfg.default = none := by decide
theorem test_wf_no_wrap : Instr.wrap.reserved? { Cfg.default with featWrap := false } = some .noWrap := by decide
theorem test_cfg_default : Cfg.default.WF := by decide
theorem test_cfg_narrow : narrow.WF := by decide
theorem test_cfg_four : four.WF := by decide
theorem test_cfg_no_row : ¬ { Cfg.default with rows := 0 }.WF := by decide
theorem test_cfg_five_rows : ¬ { Cfg.default with rows := 5 }.WF := by decide
theorem test_cfg_no_column : ¬ { Cfg.default with cols := 0 }.WF := by decide
theorem test_cfg_65_columns : ¬ { Cfg.default with cols := 65 }.WF := by decide
theorem test_cfg_33_by_3 : ¬ { Cfg.default with cols := 33, rows := 3 }.WF := by decide
theorem test_cfg_equal_commands : ¬ { Cfg.default with cmdHome := 0x01 }.WF := by decide
theorem test_cfg_set_address_bit : ¬ { Cfg.default with setDdram := 0x40 }.WF := by decide
theorem test_cfg_clear_bit_7 : ¬ { Cfg.default with cmdClear := 0x81 }.WF := by decide
theorem test_cfg_home_bit_7 : ¬ { Cfg.default with cmdHome := 0x81 }.WF := by decide
theorem test_cfg_pwm_top : ¬ { Cfg.default with pwmTop := 0 }.WF := by decide
theorem test_cfg_pins : ¬ { Cfg.default with pins := { Cfg.default.pins with bl := 0 } }.WF := by decide
theorem test_cfg_few_pins : ¬ { Cfg.default with pins := { Cfg.default.pins with data := [0, 1] } }.WF := by decide
theorem test_cfg_times : ¬ { Cfg.default with timing := { Cfg.default.timing with tEpw := 0 } }.WF := by decide

/-! ## Decoding: words written out from 30_encoding.md rules R57 to R61 -/

theorem test_decode_waitrdy : reads narrow 0b0001_000000000000#16 = some .waitrdy := by decide
theorem test_decode_wrn : reads narrow 0b0010_000_0_0000_0011#16 = some (.wrn false 0x3) := by decide
theorem test_decode_wrn_wide : reads Cfg.default 0b0010_000_1_0100_0001#16 = some (.wrn true 0x41) := by decide
theorem test_decode_xferraw : reads narrow 0b0011_000_0_0010_1000#16 = some (.xferraw false 0x28) := by decide
theorem test_decode_xfer : reads narrow 0b0100_000_1_0100_0001#16 = some (.xfer true 0x41) := by decide
theorem test_decode_goto : reads narrow 0b0101_0010_0000_0101#16 = some (.goto 5 2) := by decide
theorem test_decode_goto_zero : reads narrow 0x5000 = some (.goto 0 0) := by decide
theorem test_decode_wrap : reads narrow 0b0110_000000000000#16 = some .wrap := by decide
theorem test_decode_bright : reads narrow 0b0111_0000_0011_0010#16 = some (.bright 50) := by decide

/-- The reserved words of 95_test_vectors.md section 2.1, on a narrow bus. -/
theorem test_decode_reserved :
    [0x0000, 0x8000, 0xFFFF, 0x1001, 0x4241, 0x7132, 0x2013].map (refusal narrow) =
      [some .opcode, some .opcode, some .opcode, some .zeroBits, some .zeroBits, some .zeroBits,
        some .wideUnit] := by decide

theorem test_decode_wrap_absent : refusal { narrow with featWrap := false } 0x6000 = some .noWrap := by decide

theorem test_encode_vectors :
    [.waitrdy, .wrn false 3, .xferraw false 0x28, .xfer true 0x41, .goto 5 2, .wrap, .bright 255].map encode =
      [0x1000, 0x2003, 0x3028, 0x4141, 0x5205, 0x6000, 0x70FF] := by decide

theorem test_parse_goto : parseLine "GOTO 5, 2 ; cell".toList = some (some (.op (.goto 5 2))) := by decide
theorem test_parse_putc : parseLine "PUTC ';'".toList = some (some (.putc 0x3B)) := by decide
theorem test_assemble_clear : AsmLine.clear.toHost Cfg.default = .op 0x4001 := by decide

/-- The raw part of program P4 of 95_test_vectors.md, its words. -/
theorem test_boot_words :
    (bootChain narrow (.default narrow)).filterMap (fun l => (l.instr? narrow).map encode) =
      [0x2003, 0x2003, 0x2003, 0x2002, 0x3028, 0x3008, 0x3001, 0x3006, 0x300C] := by decide

/-- The polled part of program P4, its words: the arrow in slot 0, full brightness, clear, home. -/
theorem test_boot_terminal_words :
    (bootTerminal (.default narrow)
        (#v[some #v[0x04, 0x0E, 0x1F, 0x04, 0x04, 0x04, 0x04, 0x00], none, none, none, none, none, none, none]) 100
      ).filterMap (fun l => (l.instr? narrow).map encode) =
      [0x4040, 0x4104, 0x410E, 0x411F, 0x4104, 0x4104, 0x4104, 0x4104, 0x4100, 0x7064, 0x4001, 0x4002] := by decide

/-- Slot 3 alone configured: its offset is 24 (20_memory.md rule R42). -/
theorem test_boot_terminal_slot_3 :
    ((bootTerminal (.default narrow)
        (#v[none, none, none, some (Vector.replicate 8 0x1F), none, none, none, none]) 0).head?) =
      some (.cmd 0x58) := by decide

/-! ## The controller's pointer, where the spec gives it (20_memory.md rule R41, 91_not_in_source.md N9) -/

theorem test_pointer_in_row : ((⟨some 0x40, none⟩ : Lcd).byte Cfg.default true 0x41).ac = some 0x41 := by decide

theorem test_pointer_past_row : [0x0F, 0x10, 0x3F, 0x4F, 0x7F].all (fun a =>
    ((⟨some a, none⟩ : Lcd).byte Cfg.default true 0x41).ac == none) = true := by decide

/-! ## One step of each operation (95_test_vectors.md sections 2.2 to 2.5) -/

/-- V18. -/
theorem test_wrn_narrow : after (exec (.wrn false 0x3) (at_ narrow 5 1 [])) (fun t =>
    t.trace == [.wr false 0x3] && t.curCol == 5 && t.d == 0) = true := by decide

/-- V19: no cursor effect. -/
theorem test_wrn_wide : after (exec (.wrn true 0x41) (at_ Cfg.default 5 1 [])) (fun t =>
    t.trace == [.wr true 0x41] && t.curCol == 5 && t.rs) = true := by decide

/-- V12: high nibble first. -/
theorem test_xferraw_narrow : after (exec (.xferraw true 0xA5) (at_ narrow 1 1 [])) (fun t =>
    t.trace == [.wr true 0xA, .wr true 0x5] && t.curCol == 2) = true := by decide

/-- V20: the column wraps at 256. -/
theorem test_xferraw_wraps : after (exec (.xferraw true 0x20) (at_ Cfg.default 255 1 [])) (fun t =>
    t.curCol == 0 && t.curRow == 1) = true := by decide

/-- V16. -/
theorem test_xfer_narrow : after (exec (.xfer true 0x41) (at_ narrow 3 1 [0x0, 0x2])) (fun t =>
    t.trace == [.rd false 0x0, .rd false 0x2, .wr true 0x4, .wr true 0x1] && t.curCol == 4 && t.stat == 0x02 &&
      t.rs && t.dir == .output) = true := by decide

/-- P5, line 4: `0x03` is not recognised as home. -/
theorem test_xfer_near_home : after (exec (.xfer false 0x03) (at_ Cfg.default 4 1 [0x00])) (fun t =>
    t.curCol == 4 && t.trace == [.rd false 0x00, .wr false 0x03]) = true := by decide

/-- V26: bits 6:0 do not matter. -/
theorem test_waitrdy_ready : after (exec .waitrdy (at_ Cfg.default 1 1 [0x7F])) (fun t =>
    t.trace == [.rd false 0x7F] && t.stat == 0x7F && !t.busy && t.dir == .output && !t.rw) = true := by decide

/-- V28, its first poll: the block is busy, its lines reading. -/
theorem test_waitrdy_busy : after (exec .waitrdy (at_ narrow 1 1 [0x8, 0x0])) (fun t =>
    t.trace == [.rd false 0x8, .rd false 0x0] && t.busy && t.dir == .input && t.rw) = true := by decide

/-- V22: column 0 is column 1. -/
theorem test_goto_zero : after (exec (.goto 0 2) (at_ Cfg.default 9 1 [0x00])) (fun t =>
    t.trace == [.rd false 0x00, .wr false 0xC0] && t.curCol == 1 && t.curRow == 2) = true := by decide

/-- V30. -/
theorem test_goto_last_cell : after (exec (.goto 20 4) (at_ four 1 1 [0x00])) (fun t =>
    t.trace == [.rd false 0x00, .wr false 0xE7] && t.curCol == 20 && t.curRow == 4) = true := by decide

/-- V37. -/
theorem test_goto_outside : [(17, 1), (1, 3), (1, 0)].all (fun p =>
    refuses (exec (.goto p.1 p.2) (at_ Cfg.default 1 1 [])) .configurationMismatch) = true := by decide

/-- V42. -/
theorem test_wrap_moves : after (exec .wrap (at_ four 21 2 [0x00])) (fun t =>
    t.trace == [.rd false 0x00, .wr false 0x94] && t.curCol == 1 && t.curRow == 3) = true := by decide

/-- `SEQ` holds the accepted operation (10_state.md rule R18): a WRAP that moves, its first poll answered busy,
then one micro-step at a time to the same end. -/
theorem test_wrap_waits : after (exec .wrap (at_ four 21 2 [0x80])) (fun t =>
    t.busy && (match t.seq with | .run op _ => op == .wrap | .idle => false) && t.curRow == 2) = true := by decide

theorem test_wrap_micro_steps : (microSteps 40 (accepted .wrap (at_ four 21 2 [0x80, 0x00]))).seq = .idle ∧
    (microSteps 40 (accepted .wrap (at_ four 21 2 [0x80, 0x00]))).curRow = 3 ∧
    (microSteps 1 (accepted .wrap (at_ four 20 2 []))).seq = .idle := by decide

/-- V39 and V41: at column `N`, and on the last row. -/
theorem test_wrap_stays : [((16 : BitVec 8), (1 : BitVec 4)), (17, 2)].all (fun p =>
    after (exec .wrap (at_ Cfg.default p.1 p.2 [])) (fun t =>
      t.trace == [] && t.curCol == p.1 && t.curRow == p.2)) = true := by decide

/-- V34. -/
theorem test_bright_between : after (exec (.bright 99) (at_ Cfg.default 1 1 [])) (fun t =>
    t.pwmEn && t.pwmCmp == 253 && t.bl == .off && t.trace == []) = true := by decide

/-- V36 and V47: the backlight registers, the poll ready, then busy. -/
theorem test_bright_full : [0x00, 0x80].all (fun a =>
    after (exec (.bright 200) (at_ Cfg.default 1 1 [a])) (fun t =>
      !t.pwmEn && t.pwmCmp == 255 && t.bl == .on && t.busy == (a == 0x80))) = true := by decide

/-- The duty table of 95_test_vectors.md section 2.5, two rows of it. -/
theorem test_duty : [1, 2, 10, 25, 33, 50, 75, 98, 99].map (duty 249) = [3, 5, 25, 63, 83, 125, 187, 245, 247] ∧
    [1, 2, 10, 25, 33, 50, 75, 98, 99].map (duty 1023) = [11, 21, 103, 256, 338, 512, 768, 1003, 1013] := by
  decide

/-- 10_state.md rule R20: a word presented while busy. -/
theorem test_busy_refuses : refuses (step { at_ Cfg.default 1 1 [] with seq := .run .waitrdy 3, host := [.opNow 0x7032] })
    .opWhileBusy = true := by decide

/-- The word placed by withFetchWord is the first to run after reset. -/
theorem test_fetch_word : after (step (State.reset.withFetchWord 16 0x7032)) (fun t =>
    t.pwmEn && t.pwmCmp == 128 && t.host == []) = true := by decide

/-! ## Witnesses: the hypotheses of each statement are met -/

/-- A block waiting in WAITRDY. -/
def hung (c : Cfg) (answers : List Byte) : State :=
  { State.resetWith c with
    seq := .run .waitrdy 3, dir := .input, rw := true, stat := 0x80, answers := answers }

theorem inv_hung (answers : List Byte) : Inv (hung Cfg.default answers) :=
  ⟨test_cfg_default, ⟨⟨rfl, rfl, rfl, rfl, rfl, (by decide : (0x80 : Byte).msb = true)⟩, rfl⟩,
    (by decide : 1 ≤ (1 : BitVec 4).toNat), (by decide : (1 : BitVec 4).toNat ≤ Cfg.default.rows),
    (by decide : 0 ≤ Cfg.default.pwmTop), fun _ h => by cases h⟩

theorem inv_idle (answers : List Byte) (acts : List HostAct) :
    Inv { at_ Cfg.default 17 1 answers with host := acts } :=
  ⟨test_cfg_default, ⟨rfl, rfl, rfl, rfl⟩, (by decide : 1 ≤ (1 : BitVec 4).toNat),
    (by decide : (1 : BitVec 4).toNat ≤ Cfg.default.rows), (by decide : 0 ≤ Cfg.default.pwmTop),
    fun _ h => by cases h⟩

theorem units_of_busy_bytes (n : Nat) :
    (List.replicate n (0x80 : Byte)).flatMap (unitsOf .w8) = List.replicate n 0x80 := by
  induction n with
  | zero => rfl
  | succ n ih => rw [List.replicate_succ, List.flatMap_cons, ih]; rfl

theorem witness_DecodeOfEncode : (Instr.wrn true 0xF).WF narrow ∧ (Instr.goto 255 15).WF narrow := by decide

theorem witness_EncodeOfDecode : reads narrow 0x210F = some (.wrn true 0xF) ∧ reads narrow 0x5FFF = some (.goto 255 15) := by
  decide

theorem witness_ReservedWordsAreRefused :
    ∃ s : State, s.seq = .idle ∧ s.host = [.op 0x8000] ∧
      refuses (step s) (.reservedEncoding .opcode) = true :=
  ⟨{ State.reset with host := [.op 0x8000] }, by decide⟩

theorem witness_AssembledLineDecodes : AsmLine.home.instr? narrow = some (.xfer false 0x02) ∧
    (Instr.xfer false 0x02).WF narrow := by decide

theorem witness_StepRunsDecodedInstruction :
    ∃ s : State, s.seq = .idle ∧ s.host = [.op 0x7032] ∧ reads s.cfg 0x7032 = some (.bright 50) :=
  ⟨{ State.reset with host := [.op 0x7032] }, by decide⟩

theorem witness_WordWhileBusyIsRefused : ∃ s : State, s.busy = true ∧ s.host = [.opNow 0x0000] :=
  ⟨{ hung Cfg.default [] with host := [.opNow 0x0000] }, by decide⟩

theorem witness_DelayAndSilenceChangeNothing : ∃ s s' : State, s.seq = .idle ∧ s.host = [.delay 9] ∧
    s'.seq = .idle ∧ s'.host = [] :=
  ⟨{ State.reset with host := [.delay 9] }, State.reset, by decide⟩

theorem witness_ResetValues : ∃ s : State, s.host = [.reset] ∧ s.busy = true :=
  ⟨{ hung Cfg.default [0x80] with host := [.reset] }, by decide⟩

theorem witness_WrnWritesOneUnit : ∃ s : State, s.seq = .idle ∧ s.cfg.width = .w4 ∧
    fitsBus s.cfg.width 0xF = true := ⟨at_ narrow 1 1 [], by decide⟩

theorem witness_WrnOfWideUnitIsRefused : ∃ s : State, s.cfg.width = .w4 ∧ (0x10 : Byte).extractLsb' 4 4 ≠ 0 :=
  ⟨at_ narrow 1 1 [], by decide⟩

theorem witness_XferrawWritesByteAndMovesCursor : ∃ s : State, s.seq = .idle ∧ s.curCol = 255 :=
  ⟨at_ narrow 255 1 [], by decide⟩

/-- For XFER, WAITRDY and BRIGHT's edge cases: a ready answer, on both buses. -/
theorem witness_ready : ∃ s s' : State, s.cfg.WF ∧ s.seq = .idle ∧ s.cfg.width = .w8 ∧ s.answersBusy = false ∧
    s'.cfg.WF ∧ s'.seq = .idle ∧ s'.cfg.width = .w4 ∧ s'.answersBusy = false :=
  ⟨at_ Cfg.default 1 1 [0x7F], at_ narrow 1 1 [0x7, 0xF], by decide⟩

theorem witness_TransferRestoresIdleLines : ∃ s : State, IdleLines s ∧ s.seq = .idle ∧
    after (exec (.xfer true 0x41) s) (fun t => t.seq == .idle) = true ∧
    after (exec (.xferraw true 0x41) s) (fun t => t.seq == .idle) = true ∧
    after (exec (.wrn true 0x41) s) (fun t => t.seq == .idle) = true :=
  ⟨at_ Cfg.default 1 1 [0x00], ⟨rfl, rfl, rfl, rfl⟩, by decide⟩

/-- An XFER that waits, its controller about to answer ready: for the clauses about an operation that ends at a
later poll. -/
theorem witness_transfer_that_waited : ∃ s : State, Inv s ∧ s.seq = .run (.xfer true 0x41) 3 ∧
    s.hostConforms = true ∧ after (step s) (fun t => t.seq == .idle && t.rs && t.curCol == 2) = true :=
  ⟨{ hung Cfg.default [0x00] with seq := .run (.xfer true 0x41) 3 },
    ⟨test_cfg_default, ⟨⟨rfl, rfl, rfl, rfl, rfl, (by decide : (0x80 : Byte).msb = true)⟩, rfl⟩,
      (by decide : 1 ≤ (1 : BitVec 4).toNat), (by decide : (1 : BitVec 4).toNat ≤ Cfg.default.rows),
      (by decide : 0 ≤ Cfg.default.pwmTop), fun _ h => by cases h⟩, by decide⟩

theorem witness_BusyTestIsTopBitOfFirstUnit : ∃ s s' : State, s.seq = .idle ∧ s.cfg.width = .w8 ∧
    s'.seq = .idle ∧ s'.cfg.width = .w4 := ⟨at_ Cfg.default 1 1 [0x80], at_ narrow 1 1 [0x7, 0xF], by decide⟩

theorem witness_PolledOperationsWaitWhileBusy : ∃ s : State, s.seq = .idle ∧ s.answersBusy = true ∧ s.cfg.WF ∧
    inDomain s.cfg 0 1 = true ∧ inDomain s.cfg 16 2 = true ∧ s.cfg.featWrap = true ∧ s.wrapMoves = true ∧
    100 ≤ (100 : BitVec 8).toNat :=
  ⟨at_ Cfg.default 17 1 [0x80], by decide⟩

theorem witness_WaitingBlockPollsAgain_busy : ∃ s : State, Inv s ∧ s.seq = .run .waitrdy 3 ∧
    s.hostConforms = true ∧ s.answersBusy = true :=
  ⟨hung Cfg.default [0x80], inv_hung _, by decide⟩

theorem witness_WaitingBlockPollsAgain_ready : ∃ s : State, Inv s ∧ s.seq = .run .waitrdy 3 ∧
    s.hostConforms = true ∧ s.answersBusy = false :=
  ⟨hung Cfg.default [0x00], inv_hung _, by decide⟩

theorem witness_HangLastsAsLongAsBusyAnswers (n : Nat) : ∃ (bs rest : List Byte) (s : State), bs.length = n ∧
    Inv s ∧ s.seq = .run .waitrdy 3 ∧ s.hostConforms = true ∧ (∀ b ∈ bs, b.msb = true) ∧
    s.answers = bs.flatMap (unitsOf s.cfg.width) ++ rest :=
  ⟨List.replicate n 0x80, [], hung Cfg.default (List.replicate n 0x80), by simp, inv_hung _, rfl, rfl,
    fun b h => by rw [(List.mem_replicate.1 h).2]; decide, by
      rw [List.append_nil]; exact (units_of_busy_bytes n).symm⟩

theorem witness_PolledOperationEndsAfterItsPolls : ∃ (s : State) (i : Instr), Inv s ∧ s.seq = .idle ∧
    waitPlace? s i = some 3 ∧ s.host = [.op (encode i)] ∧
    ({ s with host := [] } : State).hostConforms = true ∧
    s.answers = ([0x85, 0x80] ++ [0x05]).flatMap (unitsOf s.cfg.width) ++ [] :=
  ⟨{ at_ Cfg.default 17 1 [0x85, 0x80, 0x05] with host := [.op (encode (.goto 16 2))] }, .goto 16 2,
    inv_idle _ _, by decide⟩

theorem witness_AddressFormula : four.WF ∧ 1 ≤ (4 : BitVec 4).toNat ∧ (4 : BitVec 4).toNat ≤ four.rows ∧
    (20 : BitVec 8).toNat ≤ four.cols := by decide

theorem witness_AddressesInRangeAndDisjoint : four.WF ∧ inDomain four 20 1 = true ∧ inDomain four 1 3 = true ∧
    ((20 : BitVec 8), (1 : BitVec 4)) ≠ (1, 3) := by decide

theorem witness_ColumnZeroIsColumnOne : ∃ s : State, s.cfg.WF ∧ s.seq = .idle ∧ s.answersBusy = false ∧
    inDomain s.cfg 0 2 = true := ⟨at_ Cfg.default 1 1 [0x00], by decide⟩

theorem witness_GotoSendsAddressAndSetsCursor : ∃ s : State, s.seq = .idle ∧ s.answersBusy = false ∧
    addr s.cfg 20 4 = some 0x67 ∧ addr s.cfg 0 1 = some 0 := ⟨at_ four 1 1 [0x00], by decide⟩

theorem witness_GotoOutsideGeometryIsRefused : ∃ s : State, s.cfg.rows < (3 : BitVec 4).toNat ∧
    s.cfg.cols < (17 : BitVec 8).toNat := ⟨at_ Cfg.default 1 1 [], by decide⟩

theorem witness_WrapMovesToNextRow : ∃ s : State, s.cfg.WF ∧ s.cfg.featWrap = true ∧ s.seq = .idle ∧
    s.answersBusy = false ∧ s.cfg.cols < s.curCol.toNat ∧ s.curRow.toNat < s.cfg.rows :=
  ⟨at_ four 21 3 [0x00], by decide⟩

theorem witness_WrapElsewhereDoesNothing : ∃ s s' : State, s.cfg.featWrap = true ∧ s.seq = .idle ∧
    s.curCol.toNat ≤ s.cfg.cols ∧ s'.cfg.featWrap = true ∧ s'.seq = .idle ∧ s'.cfg.rows ≤ s'.curRow.toNat :=
  ⟨at_ four 20 3 [], at_ four 21 4 [], by decide⟩

theorem witness_WrapWithoutFeatureIsRefused : ∃ s : State, s.cfg.featWrap = false :=
  ⟨at_ { four with featWrap := false } 1 1 [], by decide⟩

theorem witness_CursorAfterEveryOperation : ∃ s : State, s.cfg.WF ∧ s.seq = .idle ∧
    [.waitrdy, .wrn true 1, .xferraw true 1, .xferraw false 1, .xfer true 1, .xfer false 2, .goto 0 1, .wrap,
      .bright 0, .bright 50, .bright 100].all (fun i => after (exec i s) (fun t => t.seq == .idle)) = true :=
  ⟨at_ Cfg.default 17 1 [0x00], by decide⟩

theorem witness_BrightBetweenSetsDuty : ∃ s : State, s.seq = .idle ∧ 1 ≤ (1 : BitVec 8).toNat ∧
    (99 : BitVec 8).toNat ≤ 99 := ⟨State.reset, by decide⟩

theorem witness_DutyIsTheBoundedCeiling : 1 ≤ 1 ∧ 1 ≤ 98 ∧ 98 ≤ 99 := by decide

theorem witness_PinFollowsBright : [(0 : BitVec 8), 1, 99, 100, 255].all (fun p =>
    after (exec (.bright p) (at_ Cfg.default 1 1 [0x80])) (fun _ => true)) = true := by decide

theorem witness_BacklightWrittenOnlyByBright : ∃ s : State, Inv s ∧
    after (step s) (fun t => t.pwmCmp != s.pwmCmp) = true :=
  ⟨{ at_ Cfg.default 17 1 [] with host := [.op 0x7032] }, inv_idle _ _, by decide⟩

theorem witness_StepKeepsInvariant : ∃ s : State, Inv s ∧ after (step s) (fun t => t.busy) = true :=
  ⟨{ at_ Cfg.default 17 1 [0x80] with host := [.op 0x4141] }, inv_idle _ _, by decide⟩

theorem witness_NoFaultAndThreeRefusals : ∃ s : State, Inv s ∧
    refuses (step s) .configurationMismatch = true :=
  ⟨{ at_ Cfg.default 17 1 [] with host := [.op 0x5000] }, inv_idle _ _, by decide⟩

theorem witness_ConfigurationFixedAndTraceGrows : ∃ s : State, s.host = [.op 0x3141] ∧
    after (step s) (fun t => t.trace != []) = true :=
  ⟨{ State.reset with host := [.op 0x3141] }, by decide⟩

theorem witness_OperationIsItsMicroSteps : ∃ s s' : State, s.cfg.WF ∧ s.seq = .idle ∧
    after (exec (.xfer true 0x41) s) (fun t => t.seq == .idle) = true ∧ s'.cfg.WF ∧ s'.seq = .idle ∧
    after (exec .wrap s') (fun t => t.busy) = true :=
  ⟨at_ narrow 1 1 [0x0, 0x0], at_ four 21 3 [0x80], by decide⟩

theorem witness_WrapThatMovesIsGoto : ∃ s s' : State, s.cfg.featWrap = true ∧ s.wrapMoves = true ∧ s.seq = .idle ∧
    s.answersBusy = false ∧ s'.cfg.featWrap = true ∧ s'.wrapMoves = true ∧ s'.seq = .idle ∧
    s'.answersBusy = true ∧ after (exec (.goto 1 (s'.curRow + 1)) s') (fun _ => true) = true :=
  ⟨at_ four 21 3 [0x00], at_ four 21 3 [0x80], by decide⟩

/-- A WRAP that waits, for the clauses about its later polls. -/
def hungWrap (answers : List Byte) : State :=
  { hung Cfg.default answers with seq := .run .wrap 4, curCol := 17 }

theorem inv_hungWrap (answers : List Byte) : Inv (hungWrap answers) :=
  ⟨test_cfg_default, ⟨⟨rfl, rfl, rfl, rfl, rfl, (by decide : (0x80 : Byte).msb = true)⟩, rfl⟩,
    (by decide : 1 ≤ (1 : BitVec 4).toNat), (by decide : (1 : BitVec 4).toNat ≤ Cfg.default.rows),
    (by decide : 0 ≤ Cfg.default.pwmTop), fun _ h => by cases h⟩

theorem witness_WrapThatMovesIsGoto_waiting : ∃ s s' : State, Inv s ∧ s.seq = .run .wrap 4 ∧
    s.hostConforms = true ∧ s.answersBusy = false ∧ Inv s' ∧ s'.seq = .run .wrap 4 ∧ s'.hostConforms = true ∧
    s'.answersBusy = true ∧
    after (step { s' with seq := .run (.goto 1 (s'.curRow + 1)) 3 }) (fun _ => true) = true :=
  ⟨hungWrap [0x00], hungWrap [0x80], inv_hungWrap _, rfl, rfl, by decide, inv_hungWrap _, rfl, rfl, by decide,
    by decide⟩

theorem witness_lines : ∃ s : State, IdleLines s ∧ (program s (.xfer true 0x41)).isSome = true ∧
    (microSteps 4 (accepted (.xfer true 0x41) s)).e = true :=
  ⟨at_ narrow 1 1 [0x0, 0x0], ⟨rfl, rfl, rfl, rfl⟩, by decide⟩

/-- An operation that ends at its acceptance. -/
theorem witness_CursorNamesControllerPointer : ∃ (s : State) (m : Lcd), Inv s ∧
    s.cfg.cmdDisplayOn.msb = false ∧ s.cfg.cmdDisplayOff.msb = false ∧ s.hostSteady ∧ SteadySeq s ∧
    PointerAgrees s m ∧ after (step s) (fun t => t.seq == .idle && t.cursorInRange && t.curCol == 4) = true :=
  ⟨{ at_ Cfg.default 3 1 [0x00] with host := [.op 0x4141] }, ⟨some 2, none⟩,
    ⟨test_cfg_default, ⟨rfl, rfl, rfl, rfl⟩, by decide, by decide, by decide, fun _ h => by cases h⟩,
    rfl, rfl,
    fun _ i h => by
      have e : i = .xfer true 0x41 := by
        have d : decode Cfg.default 0x4141 = .ok (.xfer true 0x41) := by decide
        injection h.symm.trans d
      subst e
      exact (by decide : (at_ Cfg.default 3 1 [0x00]).cursorInRange = true),
    (fun _ _ h => by cases h), ⟨rfl, fun _ => by decide⟩, by decide⟩

/-- An operation that waited and ends at a later poll. -/
theorem witness_CursorNamesControllerPointer_waiting : ∃ (s : State) (m : Lcd), Inv s ∧
    s.cfg.cmdDisplayOn.msb = false ∧ s.cfg.cmdDisplayOff.msb = false ∧ s.hostSteady ∧ SteadySeq s ∧
    PointerAgrees s m ∧ s.busy = true ∧
    after (step s) (fun t => t.seq == .idle && t.cursorInRange && t.curRow == 2) = true :=
  ⟨hungWrap [0x00], ⟨none, none⟩, inv_hungWrap _, rfl, rfl, trivial,
    fun op k h => by
      have e : Seq.run .wrap 4 = Seq.run op k := h
      cases e
      exact trivial,
    ⟨rfl, fun h => absurd h (by decide)⟩, by decide, by decide⟩

end Sys2Proof.Machine.Tests
end

section
namespace Sys2Proof.Machine

/-- Settles O11. `State.resetWith` writes every stored register of the table (10_state.md rule R36); `BUSY` is not
stored, and is 0 because `SEQ` is idle (rule R20). -/
theorem resetStateHasTheTableValues : Obligations.ResetStateHasTheTableValues := by
  have idle : State.reset.seq = .idle := rfl
  exact ⟨rfl, rfl, rfl, idle, State.busy_of_idle idle, rfl, rfl, rfl, rfl, rfl, rfl, rfl, rfl, rfl⟩

end Sys2Proof.Machine
end

section
/-! The opcode map of 30_encoding.md rule R61. The decoder compares fields of the word, the map compares the word
under a mask; the two meet field by field. -/

namespace Sys2Proof

/-! ## The decoder, by fields -/

theorem decodeN_eq_ok_iff {w : OpWord} {i j : Instr} :
    decodeN w i = .ok j ↔ w.extractLsb' 0 12 = 0 ∧ i = j := by
  unfold decodeN
  split <;> simp_all

theorem decodeT_eq_ok_iff {w : OpWord} {f : Bool → Byte → Instr} {j : Instr} :
    decodeT w f = .ok j ↔ w.extractLsb' 9 3 = 0 ∧ f (w.getLsbD 8) (w.extractLsb' 0 8) = j := by
  unfold decodeT
  split <;> simp_all

theorem decodeG_eq_ok_iff {w : OpWord} {j : Instr} :
    decodeG w = .ok j ↔ .goto (w.extractLsb' 0 8) (w.extractLsb' 8 4) = j := by
  simp [decodeG]

theorem decodeP_eq_ok_iff {w : OpWord} {j : Instr} :
    decodeP w = .ok j ↔ w.extractLsb' 8 4 = 0 ∧ .bright (w.extractLsb' 0 8) = j := by
  unfold decodeP
  split <;> simp_all

/-- What the bits below the opcode hold when a word spells an operation (30_encoding.md rules R57 to R60). -/
def Instr.FieldsIn (w : OpWord) : Instr → Prop
  | .waitrdy | .wrap => w.extractLsb' 0 12 = 0
  | .wrn rs b | .xferraw rs b | .xfer rs b =>
    w.extractLsb' 9 3 = 0 ∧ w.getLsbD 8 = rs ∧ w.extractLsb' 0 8 = b
  | .goto col row => w.extractLsb' 0 8 = col ∧ w.extractLsb' 8 4 = row
  | .bright pct => w.extractLsb' 8 4 = 0 ∧ w.extractLsb' 0 8 = pct

/-- The opcode map spells an operation by its opcode and its format's fields (30_encoding.md rules R56 to R61). -/
theorem decodeFields_eq_ok_iff {w : OpWord} {i : Instr} :
    decodeFields w = .ok i ↔ w.extractLsb' 12 4 = i.opcode ∧ i.FieldsIn w := by
  constructor
  · intro h
    unfold decodeFields at h
    split at h <;>
      simp only [decodeN_eq_ok_iff, decodeT_eq_ok_iff, decodeG_eq_ok_iff, decodeP_eq_ok_iff, reduceCtorEq] at h
    case h_5 op =>
      subst h
      exact ⟨BitVec.eq_of_toNat_eq op, rfl, rfl⟩
    all_goals
      obtain ⟨zeros, rfl⟩ := h
      exact ⟨BitVec.eq_of_toNat_eq ‹_›, by simp [Instr.FieldsIn, zeros]⟩
  · rintro ⟨op, fields⟩
    cases i <;>
      simp_all [decodeFields, Instr.opcode, Instr.FieldsIn, decodeN_eq_ok_iff, decodeT_eq_ok_iff, decodeG_eq_ok_iff,
        decodeP_eq_ok_iff]

theorem decode_eq_ok_iff {c : Cfg} {w : OpWord} {i : Instr} :
    decode c w = .ok i ↔ (w.extractLsb' 12 4 = i.opcode ∧ i.FieldsIn w) ∧ i.WF c := by
  rw [← decodeFields_eq_ok_iff]
  unfold decode
  split
  case h_1 r h => simp [h]
  case h_2 j h =>
    rw [h, Except.ok.injEq]
    constructor
    · intro hj
      split at hj
      · cases hj
        exact ⟨rfl, ‹_›⟩
      · cases hj
    · rintro ⟨rfl, wf⟩
      rw [wf]

/-! ## A mask, by fields -/

/-- A compare under a mask is a compare of the high part and a compare of the low part. -/
theorem and_eq_iff_extract {k n : Nat} {x mask m : BitVec (k + n)} :
    x &&& mask = m ↔
      x.extractLsb' n k &&& mask.extractLsb' n k = m.extractLsb' n k ∧
        x.extractLsb' 0 n &&& mask.extractLsb' 0 n = m.extractLsb' 0 n := by
  rw [← BitVec.extractLsb'_and, ← BitVec.extractLsb'_and]
  constructor
  · rintro rfl
    exact ⟨rfl, rfl⟩
  · rintro ⟨hi, lo⟩
    rw [← BitVec.extractLsb'_append_extractLsb' (x := x &&& mask), hi, lo,
      BitVec.extractLsb'_append_extractLsb']

/-! `BitVec.and_allOnes` at the literals `simp` writes for the masks' fields. -/

@[simp] theorem and_ones3 (x : BitVec 3) : x &&& 7#3 = x := BitVec.and_allOnes

@[simp] theorem and_ones4 (x : BitVec 4) : x &&& 15#4 = x := BitVec.and_allOnes

@[simp] theorem and_ones12 (x : BitVec 12) : x &&& 4095#12 = x := BitVec.and_allOnes

section Masks
variable {w m : OpWord}

/-- Every mask of the map keeps the opcode whole; the word's low twelve bits meet the rest of the mask, and the
map's match has none of them. -/
theorem mask_iff (mask : BitVec 12) (low : m.extractLsb' 0 12 = 0) :
    w &&& (15#4 ++ mask) = m ↔
      w.extractLsb' 12 4 = m.extractLsb' 12 4 ∧ w.extractLsb' 0 12 &&& mask = 0 := by
  rw [and_eq_iff_extract (k := 4) (n := 12), low, BitVec.extractLsb'_append_eq_left,
    BitVec.extractLsb'_append_eq_right, and_ones4]

/-- Format N (30_encoding.md rule R57). -/
theorem maskN_iff (low : m.extractLsb' 0 12 = 0) :
    w &&& 0xFFFF#16 = m ↔ w.extractLsb' 12 4 = m.extractLsb' 12 4 ∧ w.extractLsb' 0 12 = 0 := by
  simpa using mask_iff 0xFFF low

/-- Format T (30_encoding.md rule R58). -/
theorem maskT_iff (low : m.extractLsb' 0 12 = 0) :
    w &&& 0xFE00#16 = m ↔ w.extractLsb' 12 4 = m.extractLsb' 12 4 ∧ w.extractLsb' 9 3 = 0 := by
  have fields := mask_iff (w := w) 0xE00 low
  rw [and_eq_iff_extract (k := 3) (n := 9)] at fields
  simpa using fields

/-- Format T where a unit has only its low four bits (30_encoding.md rule R63). -/
theorem maskNarrowT_iff (low : m.extractLsb' 0 12 = 0) :
    w &&& 0xFEF0#16 = m ↔
      w.extractLsb' 12 4 = m.extractLsb' 12 4 ∧ w.extractLsb' 9 3 = 0 ∧ w.extractLsb' 4 4 = 0 := by
  have fields := mask_iff (w := w) 0xEF0 low
  rw [and_eq_iff_extract (k := 3) (n := 9), and_eq_iff_extract (k := 1) (n := 8),
    and_eq_iff_extract (k := 4) (n := 4)] at fields
  simpa using fields

/-- Format G (30_encoding.md rule R59). -/
theorem maskG_iff (low : m.extractLsb' 0 12 = 0) :
    w &&& 0xF000#16 = m ↔ w.extractLsb' 12 4 = m.extractLsb' 12 4 := by
  simpa using mask_iff 0 low

/-- Format P (30_encoding.md rule R60). -/
theorem maskP_iff (low : m.extractLsb' 0 12 = 0) :
    w &&& 0xFF00#16 = m ↔ w.extractLsb' 12 4 = m.extractLsb' 12 4 ∧ w.extractLsb' 8 4 = 0 := by
  have fields := mask_iff (w := w) 0xF00 low
  rw [and_eq_iff_extract (k := 4) (n := 8)] at fields
  simpa using fields

end Masks

/-! ## The rows of the map -/

/-! One theorem per row of rule R61: which words decode to the operation, whatever its operands. -/

section Rows
variable {c : Cfg} {w : OpWord}

theorem decode_waitrdy_iff : decode c w = .ok .waitrdy ↔ w &&& 0xFFFF = 0x1000 := by
  simp [decode_eq_ok_iff, Instr.opcode, Instr.FieldsIn, Instr.WF, Instr.reserved?, maskN_iff]

/-- The map's two masks of WRN: a narrow bus also asks that the unit fit (rule R63). -/
theorem decode_wrn_iff :
    (∃ rs u, decode c w = .ok (.wrn rs u)) ↔
      (c.width = .w8 ∧ w &&& 0xFE00 = 0x2000) ∨ (c.width = .w4 ∧ w &&& 0xFEF0 = 0x2000) := by
  cases width : c.width <;>
    simp [decode_eq_ok_iff, Instr.opcode, Instr.FieldsIn, Instr.WF, Instr.reserved?, width, fitsBus, maskT_iff,
      maskNarrowT_iff, and_assoc]

theorem decode_xferraw_iff : (∃ rs b, decode c w = .ok (.xferraw rs b)) ↔ w &&& 0xFE00 = 0x3000 := by
  simp [decode_eq_ok_iff, Instr.opcode, Instr.FieldsIn, Instr.WF, Instr.reserved?, maskT_iff]

theorem decode_xfer_iff : (∃ rs b, decode c w = .ok (.xfer rs b)) ↔ w &&& 0xFE00 = 0x4000 := by
  simp [decode_eq_ok_iff, Instr.opcode, Instr.FieldsIn, Instr.WF, Instr.reserved?, maskT_iff]

theorem decode_goto_iff : (∃ col row, decode c w = .ok (.goto col row)) ↔ w &&& 0xF000 = 0x5000 := by
  simp [decode_eq_ok_iff, Instr.opcode, Instr.FieldsIn, Instr.WF, Instr.reserved?, maskG_iff]

theorem decode_wrap_iff : decode c w = .ok .wrap ↔ c.featWrap = true ∧ w &&& 0xFFFF = 0x6000 := by
  simp [decode_eq_ok_iff, Instr.opcode, Instr.FieldsIn, Instr.WF, Instr.reserved?, maskN_iff, and_comm]

theorem decode_bright_iff : (∃ pct, decode c w = .ok (.bright pct)) ↔ w &&& 0xFF00 = 0x7000 := by
  simp [decode_eq_ok_iff, Instr.opcode, Instr.FieldsIn, Instr.WF, Instr.reserved?, maskP_iff]

end Rows

theorem Instr.exists_iff {p : Instr → Prop} :
    (∃ i, p i) ↔
      p .waitrdy ∨ (∃ rs u, p (.wrn rs u)) ∨ (∃ rs b, p (.xferraw rs b)) ∨ (∃ rs b, p (.xfer rs b)) ∨
        (∃ col row, p (.goto col row)) ∨ p .wrap ∨ ∃ pct, p (.bright pct) := by
  constructor
  · rintro ⟨i, h⟩
    cases i with
    | waitrdy => exact .inl h
    | wrn rs u => exact .inr (.inl ⟨rs, u, h⟩)
    | xferraw rs b => exact .inr (.inr (.inl ⟨rs, b, h⟩))
    | xfer rs b => exact .inr (.inr (.inr (.inl ⟨rs, b, h⟩)))
    | goto col row => exact .inr (.inr (.inr (.inr (.inl ⟨col, row, h⟩))))
    | wrap => exact .inr (.inr (.inr (.inr (.inr (.inl h)))))
    | bright pct => exact .inr (.inr (.inr (.inr (.inr (.inr ⟨pct, h⟩)))))
  · rintro (h | ⟨_, _, h⟩ | ⟨_, _, h⟩ | ⟨_, _, h⟩ | ⟨_, _, h⟩ | h | ⟨_, h⟩) <;> exact ⟨_, h⟩

/-- Settles O3. Of each mnemonic there is one constructor, and its row of the map says which words decode to it. -/
theorem opcodeMapIsMaskAndMatch : Obligations.OpcodeMapIsMaskAndMatch := by
  intro c w name
  rw [Instr.exists_iff]
  simp only [Instr.mnemonic, exists_and_right, decode_waitrdy_iff, decode_wrn_iff, decode_xferraw_iff,
    decode_xfer_iff, decode_goto_iff, decode_wrap_iff, decode_bright_iff]
  simp only [eq_comm (b := name), and_comm, and_left_comm, and_or_left, or_assoc]

end Sys2Proof
end

section
namespace Sys2Proof.Machine

/-- All that XFERRAW can do on an idle block (40_bus_transport.md rule R80). -/
theorem exec_xferraw_of_idle {s : State} (hs : s.seq = .idle) (rs : Bool) (v : Byte) :
    exec (.xferraw rs v) s = .next ((s.written rs v).cursorMoved rs v) := by
  obtain ⟨t, ht⟩ : ∃ t, exec (.xferraw rs v) s = .next t := ⟨_, operate_of_idle hs⟩
  obtain ⟨-, result⟩ := exec_result ht
  cases result
  exact ht

/-- Settles O14. `WriteByte` fixes the lines and the trace, `CursorEffect` the cursor; neither writes another
register. -/
theorem xferrawWritesByteAndMovesCursor : Obligations.XferrawWritesByteAndMovesCursor := by
  intro s rs v hs
  rw [exec_xferraw_of_idle hs]
  congr 1
  ext : 1
  case trace =>
    rw [State.cursorMoved_trace, State.written_trace]
    cases s.cfg.width <;> rfl
  case curCol => exact State.cursorMoved_curCol rs v (s.written rs v)
  case curRow => exact State.cursorMoved_curRow rs v (s.written rs v)
  all_goals simp

end Sys2Proof.Machine
end

section
/-! The address decoder of 42_ddram_address.md rules R96 to R99, one equation per part. -/

namespace Sys2Proof.Machine

theorem inDomain_iff {c : Cfg} {col : BitVec 8} {row : BitVec 4} :
    inDomain c col row = true ↔ 1 ≤ row.toNat ∧ row.toNat ≤ c.rows ∧ col.toNat ≤ c.cols := by
  simp [inDomain, and_assoc]

theorem toNat_colNorm (col : BitVec 8) : (colNorm col).toNat = if col = 0 then 1 else col.toNat :=
  apply_ite BitVec.toNat _ _ _

/-- The four rows that have an offset (42_ddram_address.md rule R97). -/
theorem rowOff_toNat {row : BitVec 4} (n : Nat) (first : 1 ≤ row.toNat) (last : row.toNat ≤ 4) :
    rowOff n row.toNat =
      some (if row = 1 then 0 else if row = 2 then 64 else if row = 3 then n else 64 + n) := by
  obtain rfl | rfl | rfl | rfl : row = 1 ∨ row = 2 ∨ row = 3 ∨ row = 4 := by bv_omega
  all_goals rfl

theorem addr_of_inDomain {c : Cfg} {col : BitVec 8} {row : BitVec 4} (h : inDomain c col row = true) :
    addr c col row = (rowOff c.cols row.toNat).map fun o => o + ((colNorm col).toNat - 1) :=
  if_pos h

/-- Settles O23. A well-formed geometry has at most four rows, so each row of the domain has its offset. -/
theorem addressFormula : Obligations.AddressFormula := by
  rintro c col row ⟨⟨-, rows, -⟩, -⟩ first last fits
  rw [addr_of_inDomain (inDomain_iff.2 ⟨first, last, fits⟩), rowOff_toNat _ first (last.trans rows),
    toNat_colNorm, Option.map_some]

end Sys2Proof.Machine
end

section
/-! Encoding and decoding agree (30_encoding.md rules R56 to R66): a word is fixed by its opcode and its format's
fields, and the encoder writes exactly those. -/

namespace Sys2Proof

/-! ## A word is its fields -/

theorem word_ext {v w : OpWord} (high : v.extractLsb' 12 4 = w.extractLsb' 12 4)
    (low : v.extractLsb' 0 12 = w.extractLsb' 0 12) : v = w := by
  rw [← BitVec.extractLsb'_append_extractLsb' (w := 4) (len := 12) (x := v), high, low,
    BitVec.extractLsb'_append_extractLsb']

/-- Formats G and P split the low twelve bits in two (30_encoding.md rules R59 and R60). -/
theorem low12_ext_of_nibble {v w : OpWord} (nibble : v.extractLsb' 8 4 = w.extractLsb' 8 4)
    (byte : v.extractLsb' 0 8 = w.extractLsb' 0 8) : v.extractLsb' 0 12 = w.extractLsb' 0 12 := by
  simp only [← BitVec.toNat_inj, BitVec.extractLsb'_toNat, Nat.shiftRight_eq_div_pow] at *
  omega

/-- Format T splits its bits 11:8 once more, at bit 9 (30_encoding.md rule R58). -/
theorem nibble_ext_of_rs {v w : OpWord} (zeros : v.extractLsb' 9 3 = w.extractLsb' 9 3)
    (rs : v.getLsbD 8 = w.getLsbD 8) : v.extractLsb' 8 4 = w.extractLsb' 8 4 := by
  simp only [← BitVec.toNat_inj, BitVec.extractLsb'_toNat, Nat.shiftRight_eq_div_pow, BitVec.getLsbD,
    Nat.testBit_eq_decide_div_mod_eq, decide_eq_decide] at *
  omega

/-- The opcode and the format's fields leave no bit of the word free. -/
theorem word_unique {v w : OpWord} {i : Instr} (hv : v.extractLsb' 12 4 = i.opcode) (fv : i.FieldsIn v)
    (hw : w.extractLsb' 12 4 = i.opcode) (fw : i.FieldsIn w) : v = w := by
  refine word_ext (hv.trans hw.symm) ?_
  cases i with
  | waitrdy | wrap => exact fv.trans fw.symm
  | wrn | xferraw | xfer =>
    obtain ⟨zv, rv, bv⟩ := fv
    obtain ⟨zw, rw, bw⟩ := fw
    exact low12_ext_of_nibble (nibble_ext_of_rs (zv.trans zw.symm) (rv.trans rw.symm)) (bv.trans bw.symm)
  | goto =>
    obtain ⟨cv, rv⟩ := fv
    obtain ⟨cw, rw⟩ := fw
    exact low12_ext_of_nibble (rv.trans rw.symm) (cv.trans cw.symm)
  | bright =>
    obtain ⟨zv, pv⟩ := fv
    obtain ⟨zw, pw⟩ := fw
    exact low12_ext_of_nibble (zv.trans zw.symm) (pv.trans pw.symm)

/-! ## The fields of an encoded word -/

theorem opcode_encode (i : Instr) : (encode i).extractLsb' 12 4 = i.opcode := by
  cases i with
  | waitrdy => exact Laws.OpcodeField.waitrdy
  | wrn rs u => exact Laws.OpcodeField.wrn rs u
  | xferraw rs b => exact Laws.OpcodeField.xferraw rs b
  | xfer rs b => exact Laws.OpcodeField.xfer rs b
  | goto col row => exact Laws.OpcodeField.goto col row
  | wrap => exact Laws.OpcodeField.wrap
  | bright pct => exact Laws.OpcodeField.bright pct

/-- Format T writes its two fields below the opcode and leaves bits 11:9 zero (30_encoding.md rule R58). -/
theorem fields_encodeT {op : OpWord} (rs : Bool) (b : Byte) (low : op.extractLsb' 0 12 = 0) :
    (encodeT op rs b).extractLsb' 9 3 = 0 ∧ (encodeT op rs b).getLsbD 8 = rs ∧
      (encodeT op rs b).extractLsb' 0 8 = b := by
  have bits : ∀ j (hj : j < 12), op[j] = false := fun j hj => by
    simpa [hj, BitVec.getLsbD_eq_getElem (show j < 16 by omega)] using congrArg (·.getLsbD j) low
  refine ⟨?_, ?_, ?_⟩
  · ext i hi
    interval_cases i <;> simp [encodeT, bits]
  · simp [encodeT, bits]
  · ext i hi
    interval_cases i <;> simp [encodeT, bits]

/-- The encoder writes the operands where the decoder reads them. -/
theorem fieldsIn_encode (i : Instr) : i.FieldsIn (encode i) := by
  cases i with
  | waitrdy | wrap =>
    unfold Instr.FieldsIn
    decide
  | wrn rs b | xferraw rs b | xfer rs b => exact fields_encodeT rs b (by decide)
  | goto col row =>
    refine ⟨?_, ?_⟩ <;> ext i hi <;> interval_cases i <;> simp [encode]
  | bright pct =>
    refine ⟨?_, ?_⟩ <;> ext i hi <;> interval_cases i <;> simp [encode]

/-- Settles O1. The encoder writes the opcode and the fields that the decoder asks for. -/
theorem decodeOfEncode : Obligations.DecodeOfEncode :=
  fun _ i wf => decode_eq_ok_iff.2 ⟨⟨opcode_encode i, fieldsIn_encode i⟩, wf⟩

/-- Settles O2. The word and the encoded word have the same opcode and the same fields. -/
theorem encodeOfDecode : Obligations.EncodeOfDecode := by
  intro c w i h
  obtain ⟨⟨opcode, fields⟩, wf⟩ := decode_eq_ok_iff.1 h
  exact ⟨word_unique (opcode_encode i) (fieldsIn_encode i) opcode fields, wf⟩

/-- A line that stands for an operation is that operation's word (30_encoding.md rule R72). -/
theorem toHost_of_instr? {c : Cfg} {l : AsmLine} {i : Instr} (h : l.instr? c = some i) :
    l.toHost c = .op (encode i) := by
  cases l with
  | delay k => cases h
  | op | cmd | putc | clear | home => cases h; rfl

/-- Settles O6. The one word is the operation's own, which decodes to it. -/
theorem assembledLineDecodes : Obligations.AssembledLineDecodes :=
  fun c _ i h wf => ⟨encode i, toHost_of_instr? h, decodeOfEncode c i wf⟩

/-- Settles O5, by evaluating the decoder on the ten words. -/
theorem vectorWordsDecode : Obligations.VectorWordsDecode := by
  unfold Obligations.VectorWordsDecode
  decide

end Sys2Proof
end

section
/-! What an accepted operation and a step can do, in the two shapes that later proofs split on: an operation either
writes and ends, or polls; a poll leaves the block waiting or finishes the operation. -/

namespace Sys2Proof.Machine

/-! ## The backlight registers of an operation -/

@[simp] theorem State.backlitBy_cfg (s : State) (i : Instr) : (s.backlitBy i).cfg = s.cfg := by
  cases i <;> simp [State.backlitBy]
@[simp] theorem State.backlitBy_curCol (s : State) (i : Instr) : (s.backlitBy i).curCol = s.curCol := by
  cases i <;> simp [State.backlitBy]
@[simp] theorem State.backlitBy_curRow (s : State) (i : Instr) : (s.backlitBy i).curRow = s.curRow := by
  cases i <;> simp [State.backlitBy]
@[simp] theorem State.backlitBy_trace (s : State) (i : Instr) : (s.backlitBy i).trace = s.trace := by
  cases i <;> simp [State.backlitBy]
@[simp] theorem State.backlitBy_seq (s : State) (i : Instr) : (s.backlitBy i).seq = s.seq := by
  cases i <;> simp [State.backlitBy]
@[simp] theorem State.backlitBy_d (s : State) (i : Instr) : (s.backlitBy i).d = s.d := by
  cases i <;> simp [State.backlitBy]
@[simp] theorem State.backlitBy_host (s : State) (i : Instr) : (s.backlitBy i).host = s.host := by
  cases i <;> simp [State.backlitBy]
@[simp] theorem State.backlitBy_answers (s : State) (i : Instr) : (s.backlitBy i).answers = s.answers := by
  cases i <;> simp [State.backlitBy]
@[simp] theorem State.backlitBy_answersBusy (s : State) (i : Instr) :
    (s.backlitBy i).answersBusy = s.answersBusy := by
  cases i <;> simp [State.backlitBy]

/-- Where an operation polls does not depend on the backlight. -/
@[simp] theorem waitPlace?_backlitBy (s : State) (i : Instr) :
    waitPlace? (s.backlitBy i) i = waitPlace? s i := by
  cases i <;> rfl

theorem wrapMoves_iff {s : State} :
    s.wrapMoves = true ↔ s.cfg.cols < s.curCol.toNat ∧ s.curRow.toNat < s.cfg.rows := by
  simp [State.wrapMoves]

theorem waitPlace?_goto_iff {s : State} {col : BitVec 8} {row : BitVec 4} {k : Nat} :
    waitPlace? s (.goto col row) = some k ↔ k = 3 ∧ ∃ a, addr s.cfg col row = some a := by
  rw [waitPlace?, Option.ite_none_right_eq_some, Option.isSome_iff_exists, Option.some.injEq]
  exact ⟨fun ⟨cell, place⟩ => ⟨place.symm, cell⟩, fun ⟨place, cell⟩ => ⟨cell, place.symm⟩⟩

theorem waitPlace?_wrap_iff {s : State} {k : Nat} :
    waitPlace? s .wrap = some k ↔
      k = 4 ∧ s.cfg.featWrap = true ∧ s.wrapMoves = true ∧ ∃ a, addr s.cfg 1 (s.curRow + 1) = some a := by
  rw [waitPlace?, Option.ite_none_right_eq_some, Option.isSome_iff_exists, Option.some.injEq]
  exact ⟨fun ⟨moves, place⟩ => ⟨place.symm, moves⟩, fun ⟨place, moves⟩ => ⟨moves, place.symm⟩⟩

theorem waitPlace?_bright_iff {s : State} {pct : BitVec 8} {k : Nat} :
    waitPlace? s (.bright pct) = some k ↔ k = 6 ∧ (100 ≤ pct.toNat ∨ pct = 0) := by
  rw [waitPlace?, Option.ite_none_right_eq_some, Option.some.injEq]
  exact ⟨fun ⟨edge, place⟩ => ⟨place.symm, edge⟩, fun ⟨place, edge⟩ => ⟨edge, place.symm⟩⟩

/-! ## An operation -/

/-- One poll of a polled operation and what its answer leads to (41_busy_flag_sync.md rules R90 and R93). -/
def State.poll (op : Instr) (k : Nat) (s : State) : State :=
  if s.answersBusy then s.waiting op k else s.finished op

theorem State.poll_of_busy {s : State} (h : s.answersBusy = true) (op : Instr) (k : Nat) :
    s.poll op k = s.waiting op k := if_pos h

theorem State.poll_of_ready {s : State} (h : s.answersBusy = false) (op : Instr) (k : Nat) :
    s.poll op k = s.finished op := if_neg (by simp [h])

/-- The whole effect of an operation that an idle block runs without a poll (60_exceptions.md rule R124). -/
inductive Plain (s : State) : Instr → State → Prop
  | wrn (rs : Bool) (u : Byte) (h : fitsBus s.cfg.width u = true) :
      Plain s (.wrn rs u) { s with rs := rs, d := 0, e := false, trace := s.trace ++ [.wr rs u] }
  | xferraw (rs : Bool) (v : Byte) : Plain s (.xferraw rs v) ((s.written rs v).cursorMoved rs v)
  | wrapStays (hf : s.cfg.featWrap = true) (hm : s.wrapMoves = false) : Plain s .wrap s
  | brightBetween (pct : BitVec 8) (h1 : ¬ 100 ≤ pct.toNat) (h0 : pct ≠ 0) :
      Plain s (.bright pct) (s.backlit pct)

/-- Inversion of `exec`: a next state comes from an idle block, of an operation that writes and ends or of one
that has written its backlight registers and polls. -/
theorem exec_cases {s t : State} {i : Instr} (h : exec i s = .next t) :
    s.seq = .idle ∧ (Plain s i t ∨ ∃ k, waitPlace? s i = some k ∧ t = (s.backlitBy i).poll i k) := by
  obtain ⟨idle, result⟩ := exec_result h
  refine ⟨idle, ?_⟩
  cases result with
  | waitrdy => exact .inr ⟨3, rfl, rfl⟩
  | wrn rs u fits => exact .inl (.wrn rs u fits)
  | xferraw rs v => exact .inl (.xferraw rs v)
  | xfer rs v => exact .inr ⟨3, rfl, rfl⟩
  | goto col row a ha => exact .inr ⟨3, waitPlace?_goto_iff.2 ⟨rfl, a, ha⟩, rfl⟩
  | wrapMoves a hf hm ha => exact .inr ⟨4, waitPlace?_wrap_iff.2 ⟨rfl, hf, hm, a, ha⟩, rfl⟩
  | wrapStays hf hm => exact .inl (.wrapStays hf hm)
  | brightBetween pct h1 h0 => exact .inl (.brightBetween pct h1 h0)
  | brightEdge pct edge =>
    refine .inr ⟨6, waitPlace?_bright_iff.2 ⟨rfl, edge⟩, ?_⟩
    rw [← State.backlit_answersBusy pct s]
    rfl

/-- An idle block runs an operation that does not poll to its end. -/
theorem exec_of_plain {s t : State} {i : Instr} (idle : s.seq = .idle) (h : Plain s i t) : exec i s = .next t := by
  cases h with
  | wrn rs u fits =>
    simp only [exec, execWrn, fits, if_true, operate_of_idle idle]
    rw [runFrom_straight rfl, applyAll_wrnCode, ← idle]
  | xferraw rs v => exact exec_xferraw_of_idle idle rs v
  | wrapStays hf hm => simp only [exec, execWrap_of_idle idle hf, hm, Bool.false_eq_true, if_false]
  | brightBetween pct h1 h0 =>
    simp only [exec, execBright, operate_of_idle idle, runFrom_bright_between h1 h0]
    congr 1
    ext <;> simp [idle]

/-- An idle block presented with an operation that polls takes one poll of it. -/
theorem exec_of_polled {s : State} {i : Instr} {k : Nat} (idle : s.seq = .idle) (place : waitPlace? s i = some k) :
    exec i s = .next ((s.backlitBy i).poll i k) := by
  cases i with
  | waitrdy =>
    cases place
    simp only [exec, execWaitrdy, operate_of_idle idle, runFrom_waitrdy]
    rfl
  | wrn | xferraw => cases place
  | xfer rs v =>
    cases place
    simp only [exec, execXfer, operate_of_idle idle, runFrom_xfer]
    rfl
  | goto col row =>
    obtain ⟨rfl, a, ha⟩ := waitPlace?_goto_iff.1 place
    simp only [exec, execGoto_of_idle idle, ha]
    rfl
  | wrap =>
    obtain ⟨rfl, hf, hm, a, ha⟩ := waitPlace?_wrap_iff.1 place
    simp only [exec, execWrap_of_idle idle hf, hm, if_true, ha]
    rfl
  | bright pct =>
    obtain ⟨rfl, edge⟩ := waitPlace?_bright_iff.1 place
    simp only [exec, execBright, operate_of_idle idle, runFrom_bright_edge edge]
    rw [← State.backlit_answersBusy pct s]
    rfl

/-! ## A step -/

/-- What the port can do in a step of a block whose `SEQ` is sound: nothing (a silent host or a delay), a reset, an
operation accepted that writes and ends or that polls, one more poll of a waiting operation. -/
inductive Served (s : State) : State → Prop
  | quiet (idle : s.seq = .idle) (rest : List HostAct) : Served s { s with host := rest }
  | reset (rest : List HostAct) (host : s.host = .reset :: rest) : Served s (blockReset { s with host := rest })
  | plain {u : State} (idle : s.seq = .idle) (w : OpWord) (rest : List HostAct) (i : Instr)
      (host : s.host = .op w :: rest ∨ s.host = .opNow w :: rest) (dec : decode s.cfg w = .ok i)
      (h : Plain { s with host := rest } i u) : Served s u
  | polls (idle : s.seq = .idle) (w : OpWord) (rest : List HostAct) (i : Instr) (k : Nat)
      (host : s.host = .op w :: rest ∨ s.host = .opNow w :: rest) (dec : decode s.cfg w = .ok i)
      (place : waitPlace? s i = some k) :
      Served s ((({ s with host := rest } : State).backlitBy i).poll i k)
  | pollsAgain (op : Instr) (k : Nat) (run : s.seq = .run op k) (conforms : s.hostConforms = true) :
      Served s (s.poll op k)

/-- Inversion of `step`. -/
theorem step_cases {s t : State} (sound : SeqOk s) (h : step s = .next t) : ∃ u, Served s u ∧ t = u.tick := by
  obtain ⟨u, served, rfl⟩ := step_next h
  refine ⟨u, ?_, rfl⟩
  obtain ⟨-, free, rfl⟩ | ⟨k, rest, -, free, rfl⟩ | ⟨rest, host, rfl⟩ | ⟨w, rest, i, host, free, dec, run⟩ |
    ⟨busy, conforms, goes⟩ := serve_cases served
  · exact .quiet (State.busy_eq_false.1 free) u.host
  · exact .quiet (State.busy_eq_false.1 free) rest
  · exact .reset rest host
  · have idle := State.busy_eq_false.1 free
    obtain ⟨-, plain | ⟨k, place, rfl⟩⟩ := exec_cases run
    · exact .plain idle w rest i host dec plain
    · exact .polls idle w rest i k host dec place
  · cases hs : s.seq with
    | idle => simp [State.busy_of_idle hs] at busy
    | run op k =>
      rw [resume_of_waiting hs sound] at goes
      cases goes
      exact .pollsAgain op k hs conforms

/-- A step of a waiting block under a conforming host is one more poll. -/
theorem step_of_waiting {s : State} {op : Instr} {k : Nat} (sound : SeqOk s) (run : s.seq = .run op k)
    (conforms : s.hostConforms = true) : step s = .next (s.poll op k).tick := by
  have busy : s.busy = true := by simp [State.busy, run]
  simp only [step, serveAndTick, serve_of_busy busy conforms, resume_of_waiting run sound]
  rfl

/-- A step of an idle block presented with a word. -/
theorem step_of_word {s : State} {w : OpWord} {rest : List HostAct} (idle : s.seq = .idle)
    (host : s.host = .op w :: rest ∨ s.host = .opNow w :: rest) :
    step s =
      match decode s.cfg w with
      | .error r => .refused (.reservedEncoding r)
      | .ok i =>
        match exec i { s with host := rest } with
        | .next t => .next t.tick
        | .fault f => .fault f
        | .refused r => .refused r := by
  have free : ({ s with host := rest } : State).busy = false := State.busy_of_idle idle
  have served : serve s = present w { s with host := rest } := by
    obtain host | host := host <;> simp [serve, host, State.busy_of_idle idle]
  simp only [step, serveAndTick, served, present, free, Bool.false_eq_true, if_false]
  cases decode s.cfg w <;> rfl

/-! ## The end of a polled operation -/

/-- The write strobes of a polled operation after its last poll (41_busy_flag_sync.md rule R95). -/
def sentEvents (s : State) (op : Instr) : List Event :=
  match sentByte? s op with
  | some (rs, b) => (unitsOf s.cfg.width b).map (Event.wr rs)
  | none => []

@[simp] theorem State.finished_cfg (s : State) (op : Instr) : (s.finished op).cfg = s.cfg := by
  cases op <;> simp [State.finished, State.transferred]
@[simp] theorem State.finished_pwmEn (s : State) (op : Instr) : (s.finished op).pwmEn = s.pwmEn := by
  cases op <;> simp [State.finished, State.transferred]
@[simp] theorem State.finished_pwmCmp (s : State) (op : Instr) : (s.finished op).pwmCmp = s.pwmCmp := by
  cases op <;> simp [State.finished, State.transferred]
@[simp] theorem State.finished_bl (s : State) (op : Instr) : (s.finished op).bl = s.bl := by
  cases op <;> simp [State.finished, State.transferred]
@[simp] theorem State.finished_host (s : State) (op : Instr) : (s.finished op).host = s.host := by
  cases op <;> simp [State.finished, State.transferred]

/-- No display command is clear or home (00_scope.md rule R8). -/
theorem displayCommand_ne {c : Cfg} {pct : BitVec 8} {v : Byte} (wf : c.WF) (h : displayCommand? c pct = some v) :
    v ≠ c.cmdClear ∧ v ≠ c.cmdHome := by
  obtain ⟨-, ⟨distinct, -⟩, -⟩ := wf
  simp only [List.nodup_cons, List.mem_cons, List.not_mem_nil, not_or] at distinct
  unfold displayCommand? at h
  split at h
  · cases h; exact ⟨Ne.symm (by tauto), Ne.symm (by tauto)⟩
  · split at h <;> cases h
    exact ⟨Ne.symm (by tauto), Ne.symm (by tauto)⟩

section Finished
variable {s : State} {op : Instr} {k : Nat} (place : waitPlace? s op = some k)
include place

/-- Every edge case of BRIGHT sends a display command. -/
theorem displayCommand?_eq_some {pct : BitVec 8} (h : op = .bright pct) :
    displayCommand? s.cfg pct = some ((displayCommand? s.cfg pct).getD 0) := by
  subst h
  obtain ⟨-, edge⟩ := waitPlace?_bright_iff.1 place
  unfold displayCommand?
  split
  · rfl
  · rw [if_pos (edge.resolve_left ‹_›)]; rfl

theorem State.finished_seq : (s.finished op).seq = .idle := by
  cases op with
  | wrn | xferraw => cases place
  | _ => rfl

/-- The lines of 10_state.md rule R27; `D` is 0 where it was 0, as it is throughout the polls. -/
theorem State.finished_lines (hd : s.d = 0) : IdleLines (s.finished op) := by
  cases op with
  | wrn | xferraw => cases place
  | _ => refine ⟨?_, ?_, ?_, ?_⟩ <;> simp [State.finished, State.transferred, hd]

theorem State.finished_stat : (s.finished op).stat = s.nextStatus := by
  cases op with
  | wrn | xferraw => cases place
  | _ => simp [State.finished, State.transferred]

theorem State.finished_answers : (s.finished op).answers = s.polled.answers := by
  cases op with
  | wrn | xferraw => cases place
  | _ => simp [State.finished, State.transferred]

theorem State.finished_trace : (s.finished op).trace = s.polled.trace ++ sentEvents s op := by
  cases op with
  | wrn | xferraw => cases place
  | waitrdy => simp [State.finished, sentEvents, sentByte?]
  | xfer rs v => simp [State.finished, State.transferred, sentEvents, sentByte?]
  | goto col row =>
    obtain ⟨-, a, ha⟩ := waitPlace?_goto_iff.1 place
    simp only [State.finished, State.wentTo_trace, sentEvents, sentByte?, ha, Option.map_some, Option.getD_some]
  | wrap =>
    obtain ⟨-, -, -, a, ha⟩ := waitPlace?_wrap_iff.1 place
    simp only [State.finished, State.wentTo_trace, sentEvents, sentByte?, ha, Option.map_some, Option.getD_some]
  | bright pct =>
    have command := displayCommand?_eq_some place rfl
    simp only [sentEvents, sentByte?]
    rw [command]
    simp [State.finished, State.transferred]

/-- The cursor registers are as 42_ddram_address.md rule R107 tables them. -/
theorem State.finished_cursor (wf : s.cfg.WF) :
    ((s.finished op).curCol, (s.finished op).curRow) = s.cursorAfter op := by
  cases op with
  | wrn | xferraw => cases place
  | waitrdy => rfl
  | xfer rs v =>
    simp only [State.finished, State.transferred, State.cursorMoved_curCol, State.cursorMoved_curRow]
    cases rs
    · by_cases h : v = s.cfg.cmdClear ∨ v = s.cfg.cmdHome <;> simp [State.cursorAfter, h]
    · rfl
  | goto col row => rfl
  | wrap =>
    obtain ⟨-, -, moves, -⟩ := waitPlace?_wrap_iff.1 place
    rw [State.cursorAfter, if_pos (wrapMoves_iff.1 moves)]
    rfl
  | bright pct =>
    obtain ⟨notClear, notHome⟩ := displayCommand_ne wf (displayCommand?_eq_some place rfl)
    have other := not_or.2 ⟨notClear, notHome⟩
    simp only [State.finished, State.transferred, State.cursorMoved, Bool.false_eq_true, if_false,
      State.written_cfg, State.ready_cfg, other]
    rfl

end Finished

end Sys2Proof.Machine
end

section
/-! The invariant of the machine holds after reset and is kept by every step. -/

namespace Sys2Proof.Machine

/-- Settles O38. `State.resetWith` writes every register the invariant speaks of. -/
theorem invariantHoldsAtReset : Obligations.InvariantHoldsAtReset := by
  have legal : ∀ c : Cfg, c.WF → Inv (State.resetWith c) := fun c wf =>
    ⟨wf, ⟨rfl, rfl, rfl, rfl⟩, (by decide : 1 ≤ (1 : BitVec 4).toNat), wf.1.1, Nat.zero_le _,
      fun _ h => by cases h⟩
  exact ⟨legal _ Tests.test_cfg_default, legal⟩

/-! ## The duty and the events keep their bounds -/

theorem duty_le {top pct : Nat} (h : pct ≤ 99) (pos : 1 ≤ top) : duty top pct ≤ top := by
  have := Nat.mul_le_mul_left top h
  unfold duty
  omega

theorem eventOk_read {w : BusWidth} {v : Byte} {ev : Event} (h : ev ∈ (unitsOf w v).map (Event.rd false)) :
    EventOk w ev := by
  obtain ⟨u, hu, rfl⟩ := List.mem_map.1 h
  exact ⟨rfl, toUnit_of_mem_unitsOf hu⟩

theorem eventOk_write {w : BusWidth} {rs : Bool} {v : Byte} {ev : Event}
    (h : ev ∈ (unitsOf w v).map (Event.wr rs)) : EventOk w ev := by
  obtain ⟨u, hu, rfl⟩ := List.mem_map.1 h
  exact toUnit_of_mem_unitsOf hu

theorem eventOk_sent {s : State} {op : Instr} {ev : Event} (h : ev ∈ sentEvents s op) : EventOk s.cfg.width ev := by
  unfold sentEvents at h
  split at h
  · exact eventOk_write h
  · cases h

theorem polled_events_ok {s : State} (h : ∀ ev ∈ s.trace, EventOk s.cfg.width ev) :
    ∀ ev ∈ s.polled.trace, EventOk s.cfg.width ev := fun ev hev =>
  (List.mem_append.1 hev).elim (h ev) eventOk_read

/-! ## The cursor's row stays in the geometry -/

/-- Every cell that has an address is in the decoder's domain (42_ddram_address.md rule R96). -/
theorem inDomain_of_addr {c : Cfg} {col : BitVec 8} {row : BitVec 4} {a : Nat} (h : addr c col row = some a) :
    inDomain c col row = true := by
  unfold addr at h
  split at h
  · assumption
  · cases h

/-- No row of rule R107's table leaves the geometry, of an operation that polls. -/
theorem cursorAfter_row_in_range {s : State} {op : Instr} {k : Nat} (place : waitPlace? s op = some k)
    (wf : s.cfg.WF) (first : 1 ≤ s.curRow.toNat) (last : s.curRow.toNat ≤ s.cfg.rows) :
    1 ≤ (s.cursorAfter op).2.toNat ∧ (s.cursorAfter op).2.toNat ≤ s.cfg.rows := by
  have rows : 1 ≤ s.cfg.rows := wf.1.1
  cases op with
  | wrn | xferraw => cases place
  | waitrdy | bright => exact ⟨first, last⟩
  | xfer rs v =>
    cases rs
    · by_cases clears : v = s.cfg.cmdClear ∨ v = s.cfg.cmdHome <;>
        simp [State.cursorAfter, clears, first, last, rows]
    · exact ⟨first, last⟩
  | goto col row =>
    obtain ⟨-, a, ha⟩ := waitPlace?_goto_iff.1 place
    obtain ⟨lo, hi, -⟩ := inDomain_iff.1 (inDomain_of_addr ha)
    exact ⟨lo, hi⟩
  | wrap =>
    obtain ⟨-, -, moves, a, ha⟩ := waitPlace?_wrap_iff.1 place
    obtain ⟨lo, hi, -⟩ := inDomain_iff.1 (inDomain_of_addr ha)
    rw [State.cursorAfter, if_pos (wrapMoves_iff.1 moves)]
    exact ⟨lo, hi⟩

/-! ## The parts of a step -/

theorem SeqOk.idleLines {s : State} (h : SeqOk s) (idle : s.seq = .idle) : IdleLines s := by
  simpa only [SeqOk, idle] using h

theorem SeqOk.place {s : State} {op : Instr} {k : Nat} (h : SeqOk s) (run : s.seq = .run op k) :
    WaitLines s ∧ waitPlace? s op = some k := by
  simpa only [SeqOk, run] using h

/-- Between operations and throughout a wait the block drives no unit. -/
theorem SeqOk.d_eq_zero {s : State} (h : SeqOk s) : s.d = 0 := by
  cases run : s.seq with
  | idle => exact (h.idleLines run).2.2.2
  | run op k =>
    obtain ⟨⟨-, -, -, -, hd, -⟩, -⟩ := h.place run
    exact hd

theorem Inv.seqOk {s : State} (h : Inv s) : SeqOk s := h.2.1

theorem Inv.wf {s : State} (h : Inv s) : s.cfg.WF := h.1

/-- `Inv` reads neither the clock nor the host's list. -/
theorem inv_tick_iff {s : State} : Inv s.tick ↔ Inv s := Iff.rfl

theorem inv_host_iff {s : State} {rest : List HostAct} : Inv { s with host := rest } ↔ Inv s := Iff.rfl

/-- Where an operation polls depends on the configuration and the cursor only. -/
theorem waitPlace?_waiting (s : State) (op : Instr) (k : Nat) : waitPlace? (s.waiting op k) op = waitPlace? s op := by
  cases op <;> rfl

theorem inv_waiting {s : State} {op : Instr} {k : Nat} (h : Inv s) (place : waitPlace? s op = some k)
    (busy : s.answersBusy = true) : Inv (s.waiting op k) := by
  have hd := h.seqOk.d_eq_zero
  obtain ⟨wf, -, first, last, compare, events⟩ := h
  exact ⟨wf, ⟨⟨rfl, rfl, rfl, rfl, hd, busy⟩, (waitPlace?_waiting s op k).trans place⟩, first, last, compare,
    polled_events_ok events⟩

theorem inv_finished {s : State} {op : Instr} {k : Nat} (h : Inv s) (place : waitPlace? s op = some k) :
    Inv (s.finished op) := by
  have hd := h.seqOk.d_eq_zero
  obtain ⟨wf, -, first, last, compare, events⟩ := h
  have row : (s.finished op).curRow = (s.cursorAfter op).2 := congrArg Prod.snd (State.finished_cursor place wf)
  obtain ⟨first', last'⟩ := cursorAfter_row_in_range place wf first last
  refine ⟨by simpa using wf, ?_, by rwa [row], by simpa [row] using last', by simpa using compare, ?_⟩
  · simp only [SeqOk, State.finished_seq place]
    exact State.finished_lines place hd
  · rw [State.finished_trace place, State.finished_cfg]
    exact fun ev hev => (List.mem_append.1 hev).elim (polled_events_ok events ev) eventOk_sent

theorem inv_poll {s : State} {op : Instr} {k : Nat} (h : Inv s) (place : waitPlace? s op = some k) :
    Inv (s.poll op k) := by
  cases busy : s.answersBusy with
  | true => rw [State.poll_of_busy busy]; exact inv_waiting h place busy
  | false => rw [State.poll_of_ready busy]; exact inv_finished h place

/-- BRIGHT's compare value is at most `PWM_TOP`, at the edges and in between (43_pwm_backlight.md rule R110). -/
theorem pwmCmp_backlit_le {s : State} (wf : s.cfg.WF) (pct : BitVec 8) :
    (s.backlit pct).pwmCmp ≤ s.cfg.pwmTop := by
  unfold State.backlit
  split
  · exact le_rfl
  · split
    · exact Nat.zero_le _
    · exact duty_le (by omega) wf.2.2.1

theorem inv_backlit {s : State} (h : Inv s) (idle : s.seq = .idle) (pct : BitVec 8) : Inv (s.backlit pct) := by
  obtain ⟨wf, sound, first, last, compare, events⟩ := h
  refine ⟨by simpa using wf, ?_, by simpa using first, by simpa using last,
    by simpa using pwmCmp_backlit_le wf pct, by simpa using events⟩
  simpa [SeqOk, IdleLines, idle] using sound.idleLines idle

theorem inv_backlitBy {s : State} (h : Inv s) (idle : s.seq = .idle) (i : Instr) : Inv (s.backlitBy i) := by
  cases i with
  | bright pct => exact inv_backlit h idle pct
  | _ => exact h

theorem inv_plain {s u : State} {i : Instr} (h : Inv s) (idle : s.seq = .idle) (effect : Plain s i u) : Inv u := by
  have lines := h.seqOk.idleLines idle
  cases effect with
  | wrapStays => exact h
  | brightBetween pct => exact inv_backlit h idle pct
  | wrn rs unit fits =>
    obtain ⟨wf, -, first, last, compare, events⟩ := h
    obtain ⟨-, hrw, hdir, -⟩ := lines
    refine ⟨wf, ?_, first, last, compare, fun ev hev => ?_⟩
    · simp [SeqOk, IdleLines, idle, hrw, hdir]
    · obtain old | new := List.mem_append.1 hev
      · exact events ev old
      · rw [List.mem_singleton.1 new]
        exact toUnit_of_fitsBus fits
  | xferraw rs v =>
    obtain ⟨wf, -, first, last, compare, events⟩ := h
    obtain ⟨-, hrw, hdir, -⟩ := lines
    have rows : 1 ≤ s.cfg.rows := wf.1.1
    refine ⟨by simpa using wf, ?_, ?_, ?_, by simpa using compare, ?_⟩
    · simp [SeqOk, IdleLines, idle, hrw, hdir]
    · rw [State.cursorMoved_curRow]
      split_ifs <;> simp [first]
    · rw [State.cursorMoved_curRow, State.cursorMoved_cfg]
      split_ifs <;> simp [last, rows]
    · simp only [State.cursorMoved_cfg, State.cursorMoved_trace, State.written_cfg, State.written_trace]
      exact fun ev hev => (List.mem_append.1 hev).elim (events ev) eventOk_write

theorem inv_reset {s : State} (h : Inv s) : Inv (blockReset s) := invariantHoldsAtReset.2 s.cfg h.wf

/-- Settles O39. Each of the things a step can do keeps the invariant. -/
theorem stepKeepsInvariant : Obligations.StepKeepsInvariant := by
  intro s t h next
  obtain ⟨u, served, rfl⟩ := step_cases h.seqOk next
  rw [inv_tick_iff]
  cases served with
  | quiet => exact h
  | reset rest => exact inv_reset (s := { s with host := rest }) h
  | plain idle w rest i host dec effect => exact inv_plain (s := { s with host := rest }) h idle effect
  | polls idle w rest i k host dec place =>
    have base : Inv (({ s with host := rest } : State).backlitBy i) := 
      inv_backlitBy (s := { s with host := rest }) h idle i
    exact inv_poll base ((waitPlace?_backlitBy _ i).trans place)
  | pollsAgain op k run => exact inv_poll h (h.seqOk.place run).2

end Sys2Proof.Machine
end

section
/-! The address decoder over a legal geometry (42_ddram_address.md rules R96 to R102). -/

namespace Sys2Proof.Machine

theorem addr_of_outside {c : Cfg} {col : BitVec 8} {row : BitVec 4} (h : inDomain c col row = false) :
    addr c col row = none := if_neg (by simp [h])

/-- Column 0 names the cell that column 1 names (rule R98). -/
theorem addr_colNorm {c : Cfg} (wf : c.WF) (col : BitVec 8) (row : BitVec 4) :
    addr c (colNorm col) row = addr c col row := by
  have cols : 1 ≤ c.cols := wf.1.2.2.1
  by_cases h : col = 0
  · subst h
    have domain : inDomain c 1 row = inDomain c 0 row := by simp [inDomain, cols]
    have one : colNorm 1 = colNorm 0 := rfl
    show addr c 1 row = addr c 0 row
    simp only [addr, domain, one]
  · rw [colNorm, if_neg h]

section
variable {c : Cfg} (wf : c.WF) {col : BitVec 8} {row : BitVec 4} (cell : inDomain c col row = true)
include wf cell

theorem addr_eq :
    addr c col row = some
      ((if row = 1 then 0 else if row = 2 then 64 else if row = 3 then c.cols else 64 + c.cols) +
        ((if col = 0 then 1 else col.toNat) - 1)) := by
  obtain ⟨first, last, fits⟩ := inDomain_iff.1 cell
  exact addressFormula c col row wf first last fits

theorem exists_addr : ∃ a, addr c col row = some a := ⟨_, addr_eq wf cell⟩

/-- The whole display fits the controller's seven address bits (rule R100). -/
theorem addr_le {a : Nat} (ha : addr c col row = some a) : a ≤ 127 := by
  obtain ⟨first, last, fits⟩ := inDomain_iff.1 cell
  obtain ⟨-, rows, -, two, four⟩ := wf.1
  rw [addr_eq wf cell, Option.some.injEq] at ha
  subst ha
  split_ifs <;> bv_omega

end

/-- The cells of a row are counted from its offset, and no row reaches into the next one's addresses (rule R100). -/
theorem addr_injective {c : Cfg} (wf : c.WF) {col col' : BitVec 8} {row row' : BitVec 4}
    (cell : inDomain c col row = true) (cell' : inDomain c col' row' = true) (first : 1 ≤ col.toNat)
    (first' : 1 ≤ col'.toNat) (same : addr c col row = addr c col' row') : col = col' ∧ row = row' := by
  rw [addr_eq wf cell, addr_eq wf cell', Option.some.injEq, if_neg (by bv_omega : ¬ col = 0),
    if_neg (by bv_omega : ¬ col' = 0)] at same
  obtain ⟨lo, hi, fits⟩ := inDomain_iff.1 cell
  obtain ⟨lo', hi', fits'⟩ := inDomain_iff.1 cell'
  obtain ⟨-, rows, -, two, four⟩ := wf.1
  split_ifs at same <;> constructor <;> bv_omega

/-- Settles O24. The address formula over a legal geometry is in range and injective. -/
theorem addressesInRangeAndDisjoint : Obligations.AddressesInRangeAndDisjoint := by
  constructor
  · intro c col row wf cell
    obtain ⟨a, ha⟩ := exists_addr wf cell
    exact ⟨a, ha, addr_le wf cell ha⟩
  · intro c col col' row row' wf cell cell' first first' differ same
    obtain ⟨hcol, hrow⟩ := addr_injective wf cell cell' first first' same
    exact differ (Prod.ext hcol hrow)

/-- Settles O27. The cell is outside the decoder's domain, so GOTO has no pseudocode. -/
theorem gotoOutsideGeometryIsRefused : Obligations.GotoOutsideGeometryIsRefused := by
  intro s col row outside
  have none : inDomain s.cfg col row = false := by
    rw [← Bool.not_eq_true, inDomain_iff]
    rintro ⟨lo, hi, fits⟩
    obtain rfl | high | wide := outside
    · exact absurd lo (by decide)
    · omega
    · omega
  simp only [exec, execGoto, gotoCode, addr_of_outside none, Option.map_none]

/-- A WRAP that moves has a cell to go to (rule R104). -/
theorem wrap_cell_inDomain {s : State} (wf : s.cfg.WF) (moves : s.wrapMoves = true) :
    (s.curRow + 1).toNat = s.curRow.toNat + 1 ∧ inDomain s.cfg 1 (s.curRow + 1) = true := by
  obtain ⟨-, below⟩ := wrapMoves_iff.1 moves
  obtain ⟨-, rows, cols, -⟩ := wf.1
  have next : (s.curRow + 1).toNat = s.curRow.toNat + 1 := by bv_omega
  exact ⟨next, inDomain_iff.2 ⟨by omega, by omega, cols⟩⟩

end Sys2Proof.Machine
end

section
/-! The operation port: what is accepted, what is refused and why (10_state.md rules R17 and R20, 30_encoding.md
rule R66, 60_exceptions.md rules R121 and R125). -/

namespace Sys2Proof.Machine

/-! ## The outcomes of an operation -/

/-- The two operations that need a cell of the display, where it does not exist. -/
def NoCell (s : State) (i : Instr) : Prop :=
  (∃ col row, i = .goto col row ∧ addr s.cfg col row = none) ∨
    (i = .wrap ∧ s.wrapMoves = true ∧ addr s.cfg 1 (s.curRow + 1) = none)

/-- An idle block runs every operation that its configuration has, but for a missing cell. -/
theorem exec_total {s : State} {i : Instr} (idle : s.seq = .idle) (wf : i.WF s.cfg) :
    (∃ t, exec i s = .next t) ∨ (exec i s = .refused .configurationMismatch ∧ NoCell s i) := by
  cases i with
  | waitrdy | xfer => exact .inl ⟨_, exec_of_polled idle rfl⟩
  | wrn rs u =>
    have fits : fitsBus s.cfg.width u = true := by
      by_contra wide
      simp [Instr.WF, Instr.reserved?, wide] at wf
    exact .inl ⟨_, exec_of_plain idle (.wrn rs u fits)⟩
  | xferraw rs v => exact .inl ⟨_, exec_of_plain idle (.xferraw rs v)⟩
  | goto col row =>
    cases cell : addr s.cfg col row with
    | some a => exact .inl ⟨_, exec_of_polled idle (waitPlace?_goto_iff.2 ⟨rfl, a, cell⟩)⟩
    | none => exact .inr ⟨by simp only [exec, execGoto_of_idle idle, cell], .inl ⟨col, row, rfl, cell⟩⟩
  | wrap =>
    have feature : s.cfg.featWrap = true := by
      by_contra absent
      simp [Instr.WF, Instr.reserved?, absent] at wf
    cases moves : s.wrapMoves with
    | false => exact .inl ⟨_, exec_of_plain idle (.wrapStays feature moves)⟩
    | true =>
      cases cell : addr s.cfg 1 (s.curRow + 1) with
      | some a => exact .inl ⟨_, exec_of_polled idle (waitPlace?_wrap_iff.2 ⟨rfl, feature, moves, a, cell⟩)⟩
      | none => exact .inr ⟨by simp only [exec, execWrap_of_idle idle feature, moves, if_true, cell],
          .inr ⟨rfl, moves, cell⟩⟩
  | bright pct =>
    by_cases edge : 100 ≤ pct.toNat ∨ pct = 0
    · exact .inl ⟨_, exec_of_polled idle (waitPlace?_bright_iff.2 ⟨rfl, edge⟩)⟩
    · obtain ⟨h1, h0⟩ := not_or.1 edge
      exact .inl ⟨_, exec_of_plain idle (.brightBetween pct h1 h0)⟩

/-- Under a legal configuration only a GOTO outside the geometry lacks its cell. -/
theorem goto_of_noCell {s : State} {i : Instr} (wf : s.cfg.WF) (h : NoCell s i) :
    ∃ col row, i = .goto col row ∧ inDomain s.cfg col row = false := by
  obtain ⟨col, row, rfl, missing⟩ | ⟨rfl, moves, missing⟩ := h
  · refine ⟨col, row, rfl, Bool.eq_false_iff.2 fun cell => ?_⟩
    obtain ⟨a, ha⟩ := exists_addr wf cell
    cases missing.symm.trans ha
  · obtain ⟨a, ha⟩ := exists_addr wf (wrap_cell_inDomain wf moves).2
    cases missing.symm.trans ha

/-! ## The acts of the host, one by one -/

/-- Settles O7. The act comes off the list before the operation runs, and the tick comes after it. -/
theorem stepRunsDecodedInstruction : Obligations.StepRunsDecodedInstruction := by
  intro s w rest i idle host dec
  simp only [step_of_word idle host, dec]
  rfl

theorem step_opNow_of_busy {s : State} {w : OpWord} {rest : List HostAct} (busy : s.busy = true)
    (host : s.host = .opNow w :: rest) : step s = .refused .opWhileBusy := by
  have still : ({ s with host := rest } : State).busy = true := busy
  simp only [step, serveAndTick, serve, host, present, still, if_true]

/-- Settles O8. `BUSY` reads `SEQ`; the port looks at it before the word; and an operation that answers a next
state was accepted at `SEQ = Idle`. -/
theorem wordWhileBusyIsRefused : Obligations.WordWhileBusyIsRefused := by
  refine ⟨fun s => by simp [State.busy], fun s w rest => step_opNow_of_busy, fun s t i busy run => ?_⟩
  rw [State.busy_of_idle (exec_result run).1] at busy
  cases busy

/-- Settles O9. An idle block has nothing to go on with, so that the port answers the state itself. -/
theorem delayAndSilenceChangeNothing : Obligations.DelayAndSilenceChangeNothing := by
  constructor
  · intro s k rest idle host
    simp only [step, serveAndTick, serve, host, State.busy_of_idle idle, Bool.false_eq_true, if_false]
    rfl
  · intro s idle host
    have served : serve s = .next s := by simp [serve, host, State.busy_of_idle idle]
    simp only [step, serveAndTick, served]
    rfl

theorem step_reset {s : State} {rest : List HostAct} (host : s.host = .reset :: rest) :
    step s = .next (blockReset { s with host := rest }).tick := by
  simp only [step, serveAndTick, serve, host]

/-- Settles O10. The port serves a reset whatever `SEQ` is. -/
theorem resetValues : Obligations.ResetValues := by
  intro s rest host
  exact ⟨_, step_reset host, rfl, rfl, rfl, rfl, rfl, rfl, rfl, rfl, rfl, rfl, rfl, rfl, rfl, rfl, rfl, rfl, rfl, rfl⟩

/-! ## Every outcome of a step -/

/-- Why a step is refused: a word came while busy, is reserved, or needs a cell that does not exist. -/
inductive RefusedWord (s : State) (w : OpWord) (rest : List HostAct) : Refusal → Prop
  | whileBusy (busy : s.busy = true) : RefusedWord s w rest .opWhileBusy
  | reserved (idle : s.seq = .idle) (why : Reserved) (dec : decode s.cfg w = .error why) :
      RefusedWord s w rest (.reservedEncoding why)
  | noCell (idle : s.seq = .idle) (i : Instr) (dec : decode s.cfg w = .ok i)
      (missing : NoCell { s with host := rest } i) : RefusedWord s w rest .configurationMismatch

/-- A word presented to an idle block is run or refused. -/
theorem step_of_word_total {s : State} {w : OpWord} {rest : List HostAct} (idle : s.seq = .idle)
    (host : s.host = .op w :: rest ∨ s.host = .opNow w :: rest) :
    (∃ t, step s = .next t) ∨ ∃ r, step s = .refused r ∧ RefusedWord s w rest r := by
  rw [step_of_word idle host]
  cases dec : decode s.cfg w with
  | error why => exact .inr ⟨_, rfl, .reserved idle why dec⟩
  | ok i =>
    have wf : i.WF s.cfg := (decode_eq_ok_iff.1 dec).2
    obtain ⟨t, run⟩ | ⟨run, missing⟩ := exec_total (s := { s with host := rest }) idle wf
    · exact .inl ⟨t.tick, by simp only [run]⟩
    · exact .inr ⟨_, by simp only [run], .noCell idle i dec missing⟩

/-- A step of a block whose `SEQ` is sound answers a next state or refuses a word; it never faults. -/
theorem step_total {s : State} (sound : SeqOk s) :
    (∃ t, step s = .next t) ∨
      ∃ r w rest, (s.host = .op w :: rest ∨ s.host = .opNow w :: rest) ∧ step s = .refused r ∧
        RefusedWord s w rest r := by
  cases seq : s.seq with
  | idle =>
    match host : s.host with
    | [] => exact .inl ⟨_, delayAndSilenceChangeNothing.2 s seq host⟩
    | .delay k :: rest => exact .inl ⟨_, delayAndSilenceChangeNothing.1 s k rest seq host⟩
    | .reset :: rest => exact .inl ⟨_, step_reset host⟩
    | .op w :: rest =>
      exact (step_of_word_total seq (.inl host)).imp_right fun ⟨r, refused, why⟩ =>
        ⟨r, w, rest, .inl rfl, refused, why⟩
    | .opNow w :: rest =>
      exact (step_of_word_total seq (.inr host)).imp_right fun ⟨r, refused, why⟩ =>
        ⟨r, w, rest, .inr rfl, refused, why⟩
  | run op k =>
    have goes (conforms : s.hostConforms = true) := step_of_waiting sound seq conforms
    have busy : s.busy = true := by simp [State.busy, seq]
    match host : s.host with
    | [] | .delay _ :: _ | .op _ :: _ =>
      exact .inl ⟨_, goes (by simp [State.hostConforms, host, HostAct.conforms])⟩
    | .reset :: rest => exact .inl ⟨_, step_reset host⟩
    | .opNow w :: rest =>
      exact .inr ⟨_, w, rest, .inr rfl, step_opNow_of_busy busy host, .whileBusy busy⟩

/-- Settles O40. Of the outcomes of a step none is a fault, and a legal configuration has the cell of every WRAP. -/
theorem noFaultAndThreeRefusals : Obligations.NoFaultAndThreeRefusals := by
  intro s inv
  obtain ⟨t, next⟩ | ⟨r, w, rest, host, refused, why⟩ := step_total inv.seqOk
  · exact ⟨fun f h => (nomatch next.symm.trans h), fun r h => nomatch next.symm.trans h⟩
  · refine ⟨fun f h => (nomatch refused.symm.trans h), fun r' h => ?_⟩
    cases refused.symm.trans h
    refine ⟨w, rest, host, ?_⟩
    cases why with
    | whileBusy busy => exact .inl ⟨rfl, busy⟩
    | reserved idle why dec => exact .inr (.inl ⟨why, rfl, State.busy_of_idle idle, dec⟩)
    | noCell idle i dec missing =>
      obtain ⟨col, row, rfl, outside⟩ := goto_of_noCell (s := { s with host := rest }) inv.wf missing
      exact .inr (.inr ⟨col, row, rfl, State.busy_of_idle idle, dec, outside⟩)

/-! ## Reserved words -/

/-- At an idle block a refusal as reserved is the decoder's. -/
theorem step_reserved_iff {s : State} {w : OpWord} {rest : List HostAct} (idle : s.seq = .idle)
    (host : s.host = .op w :: rest) :
    (∃ why, step s = .refused (.reservedEncoding why)) ↔ ¬ ∃ i, decode s.cfg w = .ok i := by
  constructor
  · rintro ⟨why, refused⟩ ⟨i, dec⟩
    obtain ⟨t, next⟩ | ⟨r, stepped, reason⟩ := step_of_word_total idle (.inl host)
    · cases next.symm.trans refused
    · cases stepped.symm.trans refused
      cases reason with
      | reserved _ _ err => cases err.symm.trans dec
  · intro noOp
    cases dec : decode s.cfg w with
    | ok i => exact absurd ⟨i, dec⟩ noOp
    | error why => exact ⟨why, by rw [step_of_word idle (.inl host), dec]⟩

theorem word_eq_wrap_iff {w : OpWord} : w = 0x6000 ↔ w.extractLsb' 12 4 = 6 ∧ w.extractLsb' 0 12 = 0 :=
  ⟨fun h => by subst h; decide, fun ⟨high, low⟩ => word_ext (high.trans (by decide)) (low.trans (by decide))⟩

/-- The words that spell an operation, by their fields (30_encoding.md rules R57 to R63). -/
theorem exists_decode_iff {c : Cfg} {w : OpWord} :
    (∃ i, decode c w = .ok i) ↔
      (w.extractLsb' 12 4 = 1 ∧ w.extractLsb' 0 12 = 0) ∨
      (w.extractLsb' 12 4 = 2 ∧ w.extractLsb' 9 3 = 0 ∧ (c.width = .w4 → w.extractLsb' 4 4 = 0)) ∨
      (w.extractLsb' 12 4 = 3 ∧ w.extractLsb' 9 3 = 0) ∨
      (w.extractLsb' 12 4 = 4 ∧ w.extractLsb' 9 3 = 0) ∨
      w.extractLsb' 12 4 = 5 ∨
      (w.extractLsb' 12 4 = 6 ∧ w.extractLsb' 0 12 = 0 ∧ c.featWrap = true) ∨
      (w.extractLsb' 12 4 = 7 ∧ w.extractLsb' 8 4 = 0) := by
  rw [Instr.exists_iff]
  cases width : c.width <;>
    simp [decode_eq_ok_iff, Instr.opcode, Instr.FieldsIn, Instr.WF, Instr.reserved?, width, fitsBus, and_assoc]

/-- Settles O4. A word is refused as reserved exactly when it decodes to no operation. -/
theorem reservedWordsAreRefused : Obligations.ReservedWordsAreRefused := by
  intro s w rest idle host
  rw [step_reserved_iff idle host, exists_decode_iff, word_eq_wrap_iff]
  generalize w.extractLsb' 12 4 = opcode
  obtain h | h : opcode ∈ [0, 1, 2, 3, 4, 5, 6, 7] ∨ 8 ≤ opcode.toNat := by revert opcode; decide
  · simp only [List.mem_cons, List.not_mem_nil, or_false] at h
    obtain rfl | rfl | rfl | rfl | rfl | rfl | rfl | rfl := h <;> simp <;> tauto
  · refine iff_of_true ?_ (.inr (.inl h))
    rintro (⟨rfl, -⟩ | ⟨rfl, -⟩ | ⟨rfl, -⟩ | ⟨rfl, -⟩ | rfl | ⟨rfl, -⟩ | ⟨rfl, -⟩) <;> exact absurd h (by decide)

end Sys2Proof.Machine
end

section
/-! The exact effect of each operation on an idle block. -/

namespace Sys2Proof.Machine

/-! ## The busy answer -/

/-- An operation that polls is over after a poll exactly when the answer was ready. -/
theorem State.poll_busy {s : State} {op : Instr} {k : Nat} (place : waitPlace? s op = some k) :
    (s.poll op k).busy = s.answersBusy := by
  cases answer : s.answersBusy with
  | true => rw [State.poll_of_busy answer]; rfl
  | false => rw [State.poll_of_ready answer, State.busy_of_idle (State.finished_seq place)]

theorem State.ready_of_poll_idle {s : State} {op : Instr} {k : Nat} (place : waitPlace? s op = some k)
    (ended : (s.poll op k).seq = .idle) : s.answersBusy = false := by
  rw [← State.poll_busy place, State.busy_of_idle ended]

theorem exec_waits {s : State} {i : Instr} {k : Nat} (idle : s.seq = .idle) (place : waitPlace? s i = some k)
    (busy : s.answersBusy = true) : exec i s = .next ((s.backlitBy i).waiting i k) := by
  rw [exec_of_polled idle place, State.poll_of_busy (by simpa using busy)]

theorem exec_ends {s : State} {i : Instr} {k : Nat} (idle : s.seq = .idle) (place : waitPlace? s i = some k)
    (ready : s.answersBusy = false) : exec i s = .next ((s.backlitBy i).finished i) := by
  rw [exec_of_polled idle place, State.poll_of_ready (by simpa using ready)]

/-- Settles O19. Each of the operations polls, and the place of its loop is the one `waitPlace?` gives. -/
theorem polledOperationsWaitWhileBusy : Obligations.PolledOperationsWaitWhileBusy := by
  intro s idle busy
  refine ⟨exec_waits idle rfl busy, fun rs v => exec_waits idle rfl busy, fun col row cell wf => ?_,
    fun feature wf moves => ?_, fun pct edge => ?_⟩
  · obtain ⟨a, ha⟩ := exists_addr wf cell
    exact exec_waits idle (waitPlace?_goto_iff.2 ⟨rfl, a, ha⟩) busy
  · obtain ⟨a, ha⟩ := exists_addr wf (wrap_cell_inDomain wf moves).2
    exact exec_waits idle (waitPlace?_wrap_iff.2 ⟨rfl, feature, moves, a, ha⟩) busy
  · exact exec_waits idle (waitPlace?_bright_iff.2 ⟨rfl, edge⟩) busy

/-- Settles O20. The step is one poll, whose two answers are the two clauses. -/
theorem waitingBlockPollsAgain : Obligations.WaitingBlockPollsAgain := by
  intro s op k inv run conforms
  rw [step_of_waiting inv.seqOk run conforms]
  exact ⟨fun busy => by rw [State.poll_of_busy busy], fun ready => by rw [State.poll_of_ready ready]⟩

theorem msb_joinNibbles (h l : Byte) : (joinNibbles (lowNibble h) (lowNibble l)).msb = h.getLsbD 3 := by
  simp [joinNibbles, lowNibble, BitVec.msb_eq_getLsbD_last]

/-- Settles O18. `BUSY` after the poll is the answer's bit 7, which the first unit carries. -/
theorem busyTestIsTopBitOfFirstUnit : Obligations.BusyTestIsTopBitOfFirstUnit := by
  intro s idle
  refine ⟨_, exec_of_polled idle (k := 3) rfl, fun wide => ?_, fun narrow => ?_⟩ <;>
    rw [State.poll_busy (by rfl)]
  · simp only [State.backlitBy, State.answersBusy, State.nextStatus, wide, State.sampleUnit, toUnit]
    exact BitVec.msb_eq_getLsbD_last _
  · simp only [State.backlitBy, State.answersBusy, State.nextStatus, narrow, State.sampleUnit, State.drawn_cfg,
      toUnit]
    exact msb_joinNibbles _ _

/-! ## Transport and synchronizer -/

/-- Settles O12. WRN is an operation without a poll. -/
theorem wrnWritesOneUnit : Obligations.WrnWritesOneUnit :=
  fun _ rs u idle fits => exec_of_plain idle (.wrn rs u fits)

/-- Settles O13. WRN looks at its unit before anything else. -/
theorem wrnOfWideUnitIsRefused : Obligations.WrnOfWideUnitIsRefused := by
  intro s rs u narrow wide
  have tooWide : fitsBus s.cfg.width u = false := by simpa [fitsBus, narrow] using wide
  simp only [exec, execWrn, tooWide, Bool.false_eq_true, if_false]

/-- Settles O17. WAITRDY has nothing left to do after its poll but to give the lines back. -/
theorem waitrdyEndsWhenReady : Obligations.WaitrdyEndsWhenReady := by
  intro s idle ready
  rw [exec_ends idle (k := 3) rfl ready]
  congr 1
  ext <;> simp [State.backlitBy, State.finished, idle]

/-- Settles O15. The poll, the byte and the cursor effect write different registers but for the trace, to which
the byte's events are added after the poll's. -/
theorem xferPollsThenWritesByte : Obligations.XferPollsThenWritesByte := by
  intro s rs v idle ready
  rw [exec_ends idle (k := 3) rfl ready]
  congr 1
  ext : 1
  case curCol => exact State.cursorMoved_curCol rs v (s.ready.written rs v)
  case curRow => exact State.cursorMoved_curRow rs v (s.ready.written rs v)
  all_goals simp [State.backlitBy, State.finished, State.transferred, idle]

/-- The idle lines and `RS` after XFER, at whichever poll it ends. -/
theorem finished_xfer_lines {s : State} (rs : Bool) (v : Byte) (hd : s.d = 0) :
    IdleLines (s.finished (.xfer rs v)) ∧ (s.finished (.xfer rs v)).rs = rs :=
  ⟨State.finished_lines (k := 3) rfl hd, by simp [State.finished, State.transferred]⟩

/-- Settles O16. `WriteByte` and WRN release `D` after their last strobe; an XFER ends only at a ready answer. -/
theorem transferRestoresIdleLines : Obligations.TransferRestoresIdleLines := by
  constructor
  · rintro s t rs v i lines idle which run ended
    have hd := lines.2.2.2
    obtain ⟨-, hrw, hdir, -⟩ := lines
    obtain ⟨-, plain | ⟨k, place, rfl⟩⟩ := exec_cases run
    · cases plain <;> simp_all [IdleLines]
    · obtain rfl | rfl | rfl := which
      · cases place
      · cases place
      · rw [State.poll_of_ready (State.ready_of_poll_idle ((waitPlace?_backlitBy s _).trans place) ended)]
        exact finished_xfer_lines rs v hd
  · intro s t rs v k inv run conforms next ended
    rw [step_of_waiting inv.seqOk run conforms] at next
    cases next
    rw [State.poll_of_ready (State.ready_of_poll_idle (inv.seqOk.place run).2 ended)]
    exact finished_xfer_lines rs v inv.seqOk.d_eq_zero

/-! ## GOTO and WRAP -/

/-- What a cell move leaves: one poll, the set-address byte, the cursor (42_ddram_address.md rule R101). -/
theorem wentTo_eq {s : State} (idle : s.seq = .idle) {col : BitVec 8} {row : BitVec 4} {a : Nat}
    (ha : addr s.cfg col row = some a) :
    ({ s.wentTo col row with seq := .idle } : State) =
      { s.polled with
        dir := .output, rw := false, rs := false, d := 0, e := false
        trace := s.trace ++ (unitsOf s.cfg.width s.nextStatus).map (Event.rd false) ++
          (unitsOf s.cfg.width (s.cfg.setDdram ||| BitVec.ofNat 8 a)).map (Event.wr false)
        curCol := colNorm col
        curRow := row } := by
  ext <;> simp [idle, ha, setAddressByte]

/-- Settles O26. GOTO with a ready controller is one cell move. -/
theorem gotoSendsAddressAndSetsCursor : Obligations.GotoSendsAddressAndSetsCursor := by
  intro s col row a idle ready ha
  rw [exec_ends idle (waitPlace?_goto_iff.2 ⟨rfl, a, ha⟩) ready]
  exact congrArg _ (wentTo_eq idle ha)

/-- Settles O28. The next row's offset is the address of its column 1. -/
theorem wrapMovesToNextRow : Obligations.WrapMovesToNextRow := by
  intro s wf feature idle ready past below
  have moves : s.wrapMoves = true := wrapMoves_iff.2 ⟨past, below⟩
  obtain ⟨next, cell⟩ := wrap_cell_inDomain wf moves
  obtain ⟨first, last, -⟩ := inDomain_iff.1 cell
  obtain ⟨o, offset⟩ : ∃ o, rowOff s.cfg.cols (s.curRow.toNat + 1) = some o :=
    ⟨_, next ▸ rowOff_toNat s.cfg.cols first (last.trans wf.1.2.1)⟩
  have ha : addr s.cfg 1 (s.curRow + 1) = some o := by
    rw [addr_of_inDomain cell, next, offset]
    rfl
  refine ⟨o, offset, ?_⟩
  rw [exec_ends idle (waitPlace?_wrap_iff.2 ⟨rfl, feature, moves, o, ha⟩) ready]
  exact congrArg _ (wentTo_eq idle ha)

/-- Settles O29. WRAP's test fails. -/
theorem wrapElsewhereDoesNothing : Obligations.WrapElsewhereDoesNothing := by
  intro s feature idle elsewhere
  have stays : s.wrapMoves = false := by
    rw [← Bool.not_eq_true, wrapMoves_iff]
    omega
  exact exec_of_plain idle (.wrapStays feature stays)

/-- Settles O30. WRAP looks at `FEAT_WRAP` before anything else. -/
theorem wrapWithoutFeatureIsRefused : Obligations.WrapWithoutFeatureIsRefused := by
  intro s absent
  simp only [exec, execWrap, absent, Bool.false_eq_true, if_false]

/-- Settles O25. Columns 0 and 1 have one normal form, hence one address, one command byte and one cursor. -/
theorem columnZeroIsColumnOne : Obligations.ColumnZeroIsColumnOne := by
  have sameCell : ∀ (c : Cfg) (row : BitVec 4), c.WF → addr c 0 row = addr c 1 row := fun c row wf =>
    (addr_colNorm wf 0 row).symm
  refine ⟨sameCell, fun s row wf idle ready => ?_⟩
  have same := sameCell s.cfg row wf
  cases cell : addr s.cfg 1 row with
  | none => simp only [exec, execGoto_of_idle idle, same, cell]
  | some a =>
    rw [cell] at same
    rw [gotoSendsAddressAndSetsCursor s 0 row a idle ready same,
      gotoSendsAddressAndSetsCursor s 1 row a idle ready cell]
    rfl

/-- Settles O43. WRAP's pseudocode where it moves is that of the GOTO; only `SEQ` names the one or the other. -/
theorem wrapThatMovesIsGoto : Obligations.WrapThatMovesIsGoto := by
  constructor
  · intro s feature moves idle
    simp only [exec, execWrap_of_idle idle feature, execGoto_of_idle idle, moves, if_true]
    cases addr s.cfg 1 (s.curRow + 1) with
    | none => exact ⟨fun _ => rfl, fun _ t h => nomatch h⟩
    | some a =>
      refine ⟨fun ready => by simp only [ready, Bool.false_eq_true, if_false]; rfl, fun busy t h => ?_⟩
      simp only [busy, if_true] at h ⊢
      cases h
      rfl
  · intro s inv run conforms
    obtain ⟨lines, place⟩ := inv.seqOk.place run
    obtain ⟨-, -, -, a, ha⟩ := waitPlace?_wrap_iff.1 place
    have soundGoto : SeqOk { s with seq := .run (.goto 1 (s.curRow + 1)) 3 } :=
      ⟨lines, waitPlace?_goto_iff.2 ⟨rfl, a, ha⟩⟩
    rw [step_of_waiting inv.seqOk run conforms, step_of_waiting soundGoto rfl conforms]
    refine ⟨fun ready => ?_, fun busy t h => ?_⟩
    · rw [State.poll_of_ready ready,
        State.poll_of_ready (s := { s with seq := .run (.goto 1 (s.curRow + 1)) 3 }) ready]
      rfl
    · rw [State.poll_of_busy (s := { s with seq := .run (.goto 1 (s.curRow + 1)) 3 }) busy] at h
      cases h
      rw [State.poll_of_busy busy]
      rfl

/-! ## BRIGHT -/

/-- Settles O35. `duty` divides `top * p + 99` by 100, which is the ceiling of the quotient. -/
theorem dutyIsTheBoundedCeiling : Obligations.DutyIsTheBoundedCeiling := by
  intro top p q pos lo le hi
  have grows : top * p ≤ top * q := Nat.mul_le_mul_left top le
  have bound : top * q ≤ top * 99 := Nat.mul_le_mul_left top hi
  have positive : top ≤ top * p := Nat.le_mul_of_pos_right top lo
  unfold duty
  refine ⟨?_, ?_, ?_, ?_, ?_, ?_⟩ <;> omega

/-- Settles O32. Between its edge cases BRIGHT writes two registers and does not poll. -/
theorem brightBetweenSetsDuty : Obligations.BrightBetweenSetsDuty := by
  intro s pct idle lo hi
  have h1 : ¬ 100 ≤ pct.toNat := by omega
  have h0 : pct ≠ 0 := fun h => by simp [h] at lo
  rw [exec_of_plain idle (.brightBetween pct h1 h0), State.backlit, if_neg h1, if_neg h0]

/-- What an edge case of BRIGHT leaves, once its controller is ready: the backlight registers it writes first, one
poll, the display command (43_pwm_backlight.md rules R112 and R113). -/
theorem exec_bright_ready {s : State} {pct : BitVec 8} {v : Byte} (wf : s.cfg.WF) (idle : s.seq = .idle)
    (ready : s.answersBusy = false) (edge : 100 ≤ pct.toNat ∨ pct = 0) (command : displayCommand? s.cfg pct = some v) :
    exec (.bright pct) s =
      .next { s.polled with
        pwmEn := (s.backlit pct).pwmEn, pwmCmp := (s.backlit pct).pwmCmp, bl := (s.backlit pct).bl
        dir := .output, rw := false, rs := false, d := 0, e := false
        trace := s.trace ++ (unitsOf s.cfg.width s.nextStatus).map (Event.rd false) ++
          (unitsOf s.cfg.width v).map (Event.wr false) } := by
  rw [exec_ends idle (waitPlace?_bright_iff.2 ⟨rfl, edge⟩) ready]
  have other := not_or.2 (displayCommand_ne wf command)
  congr 1
  ext <;> simp [State.backlitBy, State.finished, State.transferred, State.cursorMoved, State.polled, command, other,
    idle]

/-- Settles O33. The upper edge case. -/
theorem brightFullSwitchesOn : Obligations.BrightFullSwitchesOn := by
  intro s pct wf idle ready full
  rw [exec_bright_ready wf idle ready (.inl full) (if_pos full), State.backlit, if_pos full]

/-- Settles O34. The lower edge case. -/
theorem brightZeroSwitchesOff : Obligations.BrightZeroSwitchesOff :=
  fun _ wf idle ready => exec_bright_ready wf idle ready (.inr rfl) rfl

end Sys2Proof.Machine
end

section
/-! What operations and steps do to the cursor, the backlight registers, the configuration and the trace. -/

namespace Sys2Proof.Machine

/-! ## The cursor (42_ddram_address.md rule R107) -/

@[simp] theorem State.cursorAfter_backlitBy (s : State) (i : Instr) :
    (s.backlitBy i).cursorAfter i = s.cursorAfter i := by
  cases i with
  | bright pct => simp [State.cursorAfter, State.backlitBy]
  | _ => rfl

section Plain
variable {s u : State} {i : Instr} (h : Plain s i u)
include h

theorem Plain.seq_eq : u.seq = s.seq := by
  cases h <;> simp

theorem Plain.cfg_eq : u.cfg = s.cfg := by
  cases h <;> simp

theorem Plain.cursor_eq : (u.curCol, u.curRow) = s.cursorAfter i := by
  cases h with
  | wrn => rfl
  | xferraw rs v =>
    rw [State.cursorMoved_curCol, State.cursorMoved_curRow]
    cases rs
    · by_cases clears : v = s.cfg.cmdClear ∨ v = s.cfg.cmdHome <;> simp [State.cursorAfter, clears]
    · rfl
  | wrapStays _ stays =>
    rw [State.cursorAfter, if_neg]
    rw [← wrapMoves_iff, stays]
    exact Bool.false_ne_true
  | brightBetween pct => simp [State.cursorAfter]

end Plain

theorem State.poll_cursor {s : State} {op : Instr} {k : Nat} (place : waitPlace? s op = some k) (wf : s.cfg.WF) :
    ((s.poll op k).seq = .idle → ((s.poll op k).curCol, (s.poll op k).curRow) = s.cursorAfter op) ∧
      ((s.poll op k).seq ≠ .idle → ((s.poll op k).curCol, (s.poll op k).curRow) = (s.curCol, s.curRow)) := by
  cases answer : s.answersBusy with
  | true =>
    rw [State.poll_of_busy answer]
    exact ⟨fun idle => (nomatch idle), fun _ => rfl⟩
  | false =>
    rw [State.poll_of_ready answer]
    exact ⟨fun _ => State.finished_cursor place wf, fun busy => absurd (State.finished_seq place) busy⟩

/-- Settles O31. An operation ends at its acceptance without a poll, or at a poll that is answered ready. -/
theorem cursorAfterEveryOperation : Obligations.CursorAfterEveryOperation := by
  refine ⟨fun s t i wf idle run => ?_, fun s t op k inv run conforms next => ?_, fun s => rfl⟩
  · obtain ⟨-, plain | ⟨k, place, rfl⟩⟩ := exec_cases run
    · exact ⟨fun _ => plain.cursor_eq, fun busy => absurd (plain.seq_eq.trans idle) busy⟩
    · simpa using State.poll_cursor (s := s.backlitBy i) ((waitPlace?_backlitBy s i).trans place) (by simpa using wf)
  · rw [step_of_waiting inv.seqOk run conforms] at next
    cases next
    exact State.poll_cursor (inv.seqOk.place run).2 inv.wf

/-! ## The backlight registers (10_state.md rules R28 to R30) -/

/-- The three backlight registers are the same. -/
def SameBacklight (s t : State) : Prop := t.pwmEn = s.pwmEn ∧ t.pwmCmp = s.pwmCmp ∧ t.bl = s.bl

theorem Plain.backlight_eq {s u : State} {i : Instr} (h : Plain s i u) : SameBacklight (s.backlitBy i) u := by
  cases h <;> simp [SameBacklight, State.backlitBy]

theorem State.poll_backlight (s : State) (op : Instr) (k : Nat) : SameBacklight s (s.poll op k) := by
  unfold State.poll
  split <;> simp [SameBacklight]

theorem State.poll_cfg (s : State) (op : Instr) (k : Nat) : (s.poll op k).cfg = s.cfg := by
  unfold State.poll
  split <;> simp

theorem backlitBy_of_not_bright {s : State} {i : Instr} (h : ∀ pct, i ≠ .bright pct) : s.backlitBy i = s := by
  cases i with
  | bright pct => exact absurd rfl (h pct)
  | _ => rfl

/-- Settles O37. An operation that is accepted leaves what `State.backlitBy` says, and a later poll writes none of
the three registers. -/
theorem backlightWrittenOnlyByBright : Obligations.BacklightWrittenOnlyByBright := by
  intro s t inv next
  obtain ⟨u, served, rfl⟩ := step_cases inv.seqOk next
  have accepted {w : OpWord} {rest : List HostAct} {i : Instr}
      (host : s.host = .op w :: rest ∨ s.host = .opNow w :: rest) (idle : s.seq = .idle)
      (dec : decode s.cfg w = .ok i) (same : SameBacklight (({ s with host := rest } : State).backlitBy i) u) :
      SameBacklight s u ∨ (∃ rest, s.host = .reset :: rest) ∨
        ∃ w rest pct, (s.host = .op w :: rest ∨ s.host = .opNow w :: rest) ∧ s.seq = .idle ∧
          decode s.cfg w = .ok (.bright pct) := by
    by_cases bright : ∃ pct, i = .bright pct
    · obtain ⟨pct, rfl⟩ := bright
      exact .inr (.inr ⟨w, rest, pct, host, idle, dec⟩)
    · rw [backlitBy_of_not_bright (not_exists.1 bright)] at same
      exact .inl same
  cases served with
  | quiet => exact .inl ⟨rfl, rfl, rfl⟩
  | reset rest host => exact .inr (.inl ⟨rest, host⟩)
  | plain idle w rest i host dec effect => exact accepted host idle dec effect.backlight_eq
  | polls idle w rest i k host dec => exact accepted host idle dec (State.poll_backlight _ i k)
  | pollsAgain op k => exact .inl (s.poll_backlight op k)

/-- What BRIGHT leaves in the backlight registers, whether it has ended or waits. -/
theorem exec_backlight {s t : State} {i : Instr} (run : exec i s = .next t) :
    t.cfg = s.cfg ∧ SameBacklight (s.backlitBy i) t := by
  obtain ⟨-, plain | ⟨k, -, rfl⟩⟩ := exec_cases run
  · exact ⟨plain.cfg_eq, plain.backlight_eq⟩
  · exact ⟨(State.poll_cfg _ i k).trans (s.backlitBy_cfg i), State.poll_backlight _ i k⟩

theorem State.pinLevel_of_static {t : State} (h : t.pwmEn = false) : t.pinLevel = t.bl := by
  simp [State.pinLevel, h]

theorem State.pinLevel_on_iff {t : State} (h : t.pwmEn = true) : t.pinLevel = .on ↔ t.cnt < t.pwmCmp := by
  simp [State.pinLevel, h]

theorem State.cnt_le (t : State) : t.cnt ≤ t.cfg.pwmTop := Nat.le_of_lt_succ (Nat.mod_lt _ (Nat.succ_pos _))

/-- Settles O36. The pin's level depends on the backlight registers and the counter alone. -/
theorem pinFollowsBright : Obligations.PinFollowsBright := by
  intro s t pct run
  obtain ⟨cfg, enabled, compare, level⟩ := exec_backlight run
  refine ⟨fun full => ?_, fun zero => ?_, fun lo hi => ?_⟩
  · simp only [State.backlitBy, State.backlit, if_pos full] at enabled level
    have pin : t.pinLevel = .on := (State.pinLevel_of_static enabled).trans level
    exact ⟨enabled, pin, by simp only [State.pinElectrical, pin, cfg]⟩
  · subst zero
    have pin : t.pinLevel = .off := (State.pinLevel_of_static enabled).trans level
    exact ⟨enabled, pin, by simp only [State.pinElectrical, pin, cfg]⟩
  · have h1 : ¬ 100 ≤ pct.toNat := by omega
    have h0 : pct ≠ 0 := fun h => by simp [h] at lo
    simp only [State.backlitBy, State.backlit, if_neg h1, if_neg h0] at enabled compare
    exact ⟨by rw [State.pinLevel_on_iff enabled, compare, duty], cfg ▸ t.cnt_le⟩

/-! ## The configuration and the trace -/

/-- The configuration is the same and no event has been taken back. -/
def Grown (s t : State) : Prop := t.cfg = s.cfg ∧ s.trace <+: t.trace

theorem Grown.refl (s : State) : Grown s s := ⟨rfl, List.prefix_rfl⟩

theorem Grown.trans {s t u : State} (h : Grown s t) (h' : Grown t u) : Grown s u :=
  ⟨h'.1.trans h.1, h.2.trans h'.2⟩

theorem Micro.apply_grown (m : Micro) (s : State) : Grown s (m.apply s) := by
  cases m <;> simp [Grown]

theorem Micro.not_straight {m : Micro} (h : m.straight = false) : (∃ back, m = .loop back) ∨ m = .wrapTest := by
  cases m <;> simp_all [Micro.straight]

theorem runFrom_grown (op : Instr) (k : Nat) (p : List Micro) (s : State) : Grown s (runFrom op k p s) := by
  induction p generalizing k s with
  | nil => exact Grown.refl s
  | cons m p ih =>
    cases straight : m.straight with
    | true =>
      rw [runFrom_cons straight]
      exact (m.apply_grown s).trans (ih _ _)
    | false =>
      obtain ⟨back, rfl⟩ | rfl := Micro.not_straight straight
      · rw [runFrom_loop]
        split
        · exact Grown.refl s
        · exact ih _ _
      · rw [runFrom_wrapTest]
        split
        · exact ih _ _
        · exact Grown.refl s

/-- An accepted operation runs its pseudocode. -/
theorem exec_program {s t : State} {i : Instr} (run : exec i s = .next t) :
    s.seq = .idle ∧ ∃ p, program s i = some p ∧ t = runFrom i 0 p s := by
  cases i with
  | waitrdy | xferraw | xfer | bright =>
    obtain ⟨idle, rfl⟩ := operate_next run
    exact ⟨idle, _, rfl, rfl⟩
  | wrn rs u =>
    simp only [exec, execWrn] at run
    split at run
    · obtain ⟨idle, rfl⟩ := operate_next run
      exact ⟨idle, _, rfl, rfl⟩
    · cases run
  | goto col row =>
    simp only [exec, execGoto] at run
    split at run
    · obtain ⟨idle, rfl⟩ := operate_next run
      exact ⟨idle, _, ‹_›, rfl⟩
    · cases run
  | wrap =>
    obtain ⟨idle, feature, -⟩ := execWrap_next run
    simp only [exec, execWrap, feature, if_true] at run
    split at run
    · cases run
    · obtain ⟨-, rfl⟩ := operate_next run
      exact ⟨idle, _, if_pos feature, rfl⟩

theorem resume_grown {s u : State} (h : resume s = .next u) : Grown s u := by
  unfold resume at h
  split at h
  · cases h
    exact Grown.refl s
  · split at h <;> cases h
    exact runFrom_grown _ _ _ _

/-- Settles O41. Whatever micro-steps are run, in whatever state, none writes the configuration or takes an event
back; only a reset empties the trace. -/
theorem configurationFixedAndTraceGrows : Obligations.ConfigurationFixedAndTraceGrows := by
  intro s t next
  obtain ⟨u, served, rfl⟩ := step_next next
  obtain ⟨-, -, rfl⟩ | ⟨k, rest, -, -, rfl⟩ | ⟨rest, host, rfl⟩ | ⟨w, rest, i, -, -, -, run⟩ | ⟨-, -, goes⟩ :=
    serve_cases served
  · exact ⟨rfl, fun _ => List.prefix_rfl⟩
  · exact ⟨rfl, fun _ => List.prefix_rfl⟩
  · exact ⟨rfl, fun noReset => absurd host (noReset rest)⟩
  · obtain ⟨-, p, -, rfl⟩ := exec_program run
    obtain ⟨cfg, grows⟩ := runFrom_grown i 0 p { s with host := rest }
    exact ⟨cfg, fun _ => grows⟩
  · obtain ⟨cfg, grows⟩ := resume_grown goes
    exact ⟨cfg, fun _ => grows⟩

end Sys2Proof.Machine
end

section
/-! The cursor registers and the controller's DDRAM pointer (10_state.md rule R34), under the controller `Lcd`. -/

namespace Sys2Proof.Machine

/-! ## The controller under the events of a byte -/

theorem Lcd.replay_append (c : Cfg) (m : Lcd) (evs evs' : List Event) :
    m.replay c (evs ++ evs') = (m.replay c evs).replay c evs' := List.foldl_append

/-- Status reads leave the pointer (20_memory.md rule R51). -/
theorem Lcd.replay_reads (c : Cfg) (m : Lcd) (rs : Bool) (us : List Byte) :
    m.replay c (us.map (Event.rd rs)) = m := by
  induction us with
  | nil => rfl
  | cons u us ih => exact ih

/-- With no nibble pending, the units of a byte are that byte to the controller (20_memory.md rule R48). -/
theorem Lcd.replay_byte {c : Cfg} {m : Lcd} (half : m.half = none) (rs : Bool) (v : Byte) :
    m.replay c ((unitsOf c.width v).map (Event.wr rs)) = m.byte c rs v := by
  obtain ⟨ac, _⟩ := m
  cases half
  cases width : c.width <;> simp [Lcd.replay, Lcd.see, unitsOf, width]

theorem Lcd.byte_half (c : Cfg) (rs : Bool) (v : Byte) (m : Lcd) : (m.byte c rs v).half = m.half := by
  unfold Lcd.byte
  split_ifs <;> rfl

theorem Lcd.byte_home {c : Cfg} {v : Byte} (h : v = c.cmdClear ∨ v = c.cmdHome) (m : Lcd) :
    m.byte c false v = { m with ac := some 0 } := by
  simp [Lcd.byte, h]

theorem Lcd.byte_display {c : Cfg} {v : Byte} (notHome : ¬ (v = c.cmdClear ∨ v = c.cmdHome))
    (h : v = c.cmdDisplayOn ∨ v = c.cmdDisplayOff) (m : Lcd) : m.byte c false v = m := by
  simp only [Lcd.byte, Bool.false_eq_true, if_false, if_neg notHome, if_pos h]

theorem msb_setAddressByte {c : Cfg} (wf : c.WF) (a : Nat) : (setAddressByte c a).msb = true := by
  obtain ⟨-, ⟨-, set, -⟩, -⟩ := wf
  have seven : (0x80 : Byte).msb = true := by decide
  rw [setAddressByte, BitVec.msb_or, set, seven, Bool.true_or]

/-- The commands whose bit 7 is clear are none of the set-address commands. -/
theorem setAddressByte_ne {c : Cfg} (wf : c.WF) (a : Nat) {v : Byte} (clear : v.msb = false) :
    setAddressByte c a ≠ v := fun h => by
  rw [← h, msb_setAddressByte wf] at clear
  cases clear

theorem setAddressByte_mod {c : Cfg} (wf : c.WF) {a : Nat} (fits : a ≤ 127) :
    (setAddressByte c a).toNat % 128 = a := by
  obtain ⟨-, ⟨-, set, -⟩, -⟩ := wf
  have low : a % 256 = a := Nat.mod_eq_of_lt (by omega)
  have seven := Nat.or_mod_two_pow (a := 128) (b := a) (n := 7)
  simp only [Nat.reducePow, Nat.reduceMod, Nat.zero_or, Nat.mod_eq_of_lt (by omega : a < 128)] at seven
  simpa [setAddressByte, set, low] using seven

theorem Lcd.byte_setAddress {c : Cfg} (wf : c.WF) (on : c.cmdDisplayOn.msb = false)
    (off : c.cmdDisplayOff.msb = false) {a : Nat} (fits : a ≤ 127) (m : Lcd) :
    m.byte c false (setAddressByte c a) = { m with ac := some a } := by
  obtain ⟨-, -, clear, home⟩ := wf.2.1
  have differs {v : Byte} (low : v.msb = false) := setAddressByte_ne wf a low
  simp only [Lcd.byte, Bool.false_eq_true, if_false, differs clear, differs home, differs on, differs off, or_self,
    msb_setAddressByte wf, if_true, setAddressByte_mod wf fits]

/-! ## The pointer at a cell -/

/-- The cursor invariant of rule R34 for a cursor at `(col, row)`. -/
def PointerAt (c : Cfg) (col : BitVec 8) (row : BitVec 4) (m : Lcd) : Prop :=
  m.half = none ∧ (1 ≤ col.toNat → col.toNat ≤ c.cols → m.ac = addr c col row)

theorem pointerAgrees_iff {s : State} {m : Lcd} :
    PointerAgrees s m ↔ PointerAt s.cfg s.curCol s.curRow m := by
  simp [PointerAgrees, PointerAt, State.cursorInRange]

/-- Inside a row the pointer goes on (20_memory.md rule R41). -/
theorem rowGoesOn_of_addr {c : Cfg} (wf : c.WF) {col : BitVec 8} {row : BitVec 4} (first : 1 ≤ row.toNat)
    (last : row.toNat ≤ c.rows) (left : 1 ≤ col.toNat) (right : col.toNat < c.cols) :
    ∃ a, addr c col row = some a ∧ addr c (col + 1) row = some (a + 1) ∧ rowGoesOn c a = true := by
  obtain ⟨-, rows, -, two, four⟩ := wf.1
  have narrow : c.cols ≤ 64 := by omega
  have next : (col + 1).toNat = col.toNat + 1 := by bv_omega
  obtain ⟨o, offset⟩ : ∃ o, rowOff c.cols row.toNat = some o := ⟨_, rowOff_toNat c.cols first (last.trans rows)⟩
  refine ⟨o + (col.toNat - 1), ?_, ?_, ?_⟩
  · rw [addr_of_inDomain (inDomain_iff.2 ⟨first, last, right.le⟩), offset, toNat_colNorm, if_neg (by bv_omega)]
    rfl
  · rw [addr_of_inDomain (inDomain_iff.2 ⟨first, last, by omega⟩), offset, toNat_colNorm, if_neg (by bv_omega), next,
      Option.map_some]
    congr 1
    omega
  · refine List.any_eq_true.2 ⟨row.toNat, ?_, ?_⟩
    · simp only [List.mem_cons, List.not_mem_nil, or_false]
      omega
    · simp only [offset, Option.any_some, Bool.and_eq_true, decide_eq_true_eq]
      omega

/-- A data byte inside the row moves the pointer and the cursor on together. -/
theorem pointerAt_data {c : Cfg} (wf : c.WF) {col : BitVec 8} {row : BitVec 4} {m : Lcd} (first : 1 ≤ row.toNat)
    (last : row.toNat ≤ c.rows) (left : 1 ≤ col.toNat) (right : col.toNat ≤ c.cols) (h : PointerAt c col row m)
    (v : Byte) : PointerAt c (col + 1) row (m.byte c true v) := by
  obtain ⟨half, pointer⟩ := h
  refine ⟨(Lcd.byte_half c true v m).trans half, fun _ inside => ?_⟩
  have narrow : c.cols ≤ 64 := by
    obtain ⟨-, -, -, two, four⟩ := wf.1
    omega
  obtain ⟨a, here, there, goes⟩ := rowGoesOn_of_addr wf first last left (by bv_omega)
  rw [there, Lcd.byte, if_pos rfl]
  simp only [pointer left right, here, Option.bind_some, goes, if_true]

/-- Clear and home put both at the first cell. -/
theorem pointerAt_home {c : Cfg} (wf : c.WF) {v : Byte} (h : v = c.cmdClear ∨ v = c.cmdHome) {m : Lcd}
    (half : m.half = none) : PointerAt c 1 1 (m.byte c false v) := by
  rw [Lcd.byte_home h]
  refine ⟨half, fun _ _ => ?_⟩
  have cell : inDomain c 1 1 = true := inDomain_iff.2 ⟨(by decide : 1 ≤ (1 : BitVec 4).toNat), wf.1.1, wf.1.2.2.1⟩
  rw [addr_of_inDomain cell]
  rfl

/-- The set-address command puts the pointer at the cell that GOTO puts the cursor at. -/
theorem pointerAt_cell {c : Cfg} (wf : c.WF) (on : c.cmdDisplayOn.msb = false) (off : c.cmdDisplayOff.msb = false)
    {col : BitVec 8} {row : BitVec 4} {a : Nat} (ha : addr c col row = some a) {m : Lcd} (half : m.half = none) :
    PointerAt c (colNorm col) row (m.byte c false (setAddressByte c a)) := by
  rw [Lcd.byte_setAddress wf on off (addr_le wf (inDomain_of_addr ha) ha)]
  exact ⟨half, fun _ _ => ((addr_colNorm wf col row).trans ha).symm⟩

/-! ## A polled operation -/

theorem displayCommand?_on_or_off {c : Cfg} {pct : BitVec 8} {v : Byte} (h : displayCommand? c pct = some v) :
    v = c.cmdDisplayOn ∨ v = c.cmdDisplayOff := by
  unfold displayCommand? at h
  split at h
  · cases h; exact .inl rfl
  · split at h <;> cases h
    exact .inr rfl

section Polled
variable {s : State} {m : Lcd} {op : Instr} {k : Nat} (wf : s.cfg.WF) (first : 1 ≤ s.curRow.toNat)
  (last : s.curRow.toNat ≤ s.cfg.rows) (on : s.cfg.cmdDisplayOn.msb = false) (off : s.cfg.cmdDisplayOff.msb = false)
  (place : waitPlace? s op = some k) (steady : Steady s op) (agrees : PointerAgrees s m)
include wf first last on off place steady agrees

/-- The byte a steady operation sends moves the pointer as the operation moves the cursor. -/
theorem pointerAt_sent :
    PointerAt s.cfg (s.cursorAfter op).1 (s.cursorAfter op).2 (m.replay s.cfg (sentEvents s op)) := by
  rw [pointerAgrees_iff] at agrees
  have half := agrees.1
  cases op with
  | wrn | xferraw => cases place
  | waitrdy => exact agrees
  | xfer rs v =>
    simp only [sentEvents, sentByte?, Lcd.replay_byte half]
    cases rs with
    | true =>
      obtain ⟨left, right⟩ : 1 ≤ s.curCol.toNat ∧ s.curCol.toNat ≤ s.cfg.cols := by
        simpa [Steady, State.cursorInRange] using steady
      exact pointerAt_data wf first last left right agrees v
    | false =>
      by_cases home : v = s.cfg.cmdClear ∨ v = s.cfg.cmdHome
      · simpa only [State.cursorAfter, if_pos home] using pointerAt_home wf home half
      · have display : v = s.cfg.cmdDisplayOn ∨ v = s.cfg.cmdDisplayOff := by
          simpa only [Steady, ← or_assoc, home, false_or] using steady
        simpa only [State.cursorAfter, if_neg home, Lcd.byte_display home display] using agrees
  | goto col row =>
    obtain ⟨-, a, ha⟩ := waitPlace?_goto_iff.1 place
    simp only [sentEvents, sentByte?, ha, Option.map_some, Lcd.replay_byte half]
    exact pointerAt_cell wf on off ha half
  | wrap =>
    obtain ⟨-, -, moves, a, ha⟩ := waitPlace?_wrap_iff.1 place
    simp only [sentEvents, sentByte?, ha, Option.map_some, Lcd.replay_byte half, State.cursorAfter,
      if_pos (wrapMoves_iff.1 moves)]
    exact pointerAt_cell wf on off ha half
  | bright pct =>
    have command := displayCommand?_eq_some place rfl
    have home := not_or.2 (displayCommand_ne wf command)
    simp only [sentEvents, sentByte?]
    rw [command, Option.map_some, Lcd.replay_byte half, Lcd.byte_display home (displayCommand?_on_or_off command)]
    exact agrees

/-- One poll, and, on a ready answer, the rest of the operation. -/
theorem poll_keeps_pointer :
    SteadySeq (s.poll op k) ∧
      ∃ evs, (s.poll op k).trace = s.trace ++ evs ∧ PointerAgrees (s.poll op k) (m.replay s.cfg evs) := by
  cases answer : s.answersBusy with
  | true =>
    rw [State.poll_of_busy answer]
    refine ⟨fun op' k' run => ?_, _, rfl, by rw [Lcd.replay_reads]; exact agrees⟩
    cases run
    cases op with
    | xfer rs v => cases rs <;> exact steady
    | _ => exact steady
  | false =>
    rw [State.poll_of_ready answer]
    refine ⟨fun op' k' run => (nomatch (State.finished_seq place).symm.trans run), _,
      (State.finished_trace place).trans (List.append_assoc _ _ _), ?_⟩
    obtain ⟨col, row⟩ := Prod.ext_iff.1 (State.finished_cursor place wf)
    rw [pointerAgrees_iff, Lcd.replay_append, Lcd.replay_reads, State.finished_cfg]
    rw [show (s.finished op).curCol = _ from col, show (s.finished op).curRow = _ from row]
    exact pointerAt_sent wf first last on off place steady agrees

end Polled

/-! ## A step -/

/-- The word a steady host presents to an idle block is of a steady operation. -/
theorem steady_of_host {s : State} {w : OpWord} {rest : List HostAct} {i : Instr} (steady : s.hostSteady)
    (host : s.host = .op w :: rest ∨ s.host = .opNow w :: rest) (idle : s.seq = .idle)
    (dec : decode s.cfg w = .ok i) : Steady s i := by
  obtain host | host := host <;> simp only [State.hostSteady, host] at steady <;> exact steady idle i dec

theorem steadySeq_of_idle {s : State} (idle : s.seq = .idle) : SteadySeq s := fun op k run => by
  cases idle.symm.trans run

theorem steady_backlitBy {s : State} {i : Instr} (steady : Steady s i) : Steady (s.backlitBy i) i := by
  cases i with
  | bright => trivial
  | _ => exact steady

theorem pointerAgrees_backlitBy {s : State} {m : Lcd} {i : Instr} :
    PointerAgrees (s.backlitBy i) m ↔ PointerAgrees s m := by
  simp [pointerAgrees_iff]

/-- Settles O46. Steps without an event keep the cursor; the steady operations that send a byte poll first, and move
pointer and cursor to one cell. -/
theorem cursorNamesControllerPointer : Obligations.CursorNamesControllerPointer := by
  intro s t m inv on off hostSteady seqSteady agrees next
  obtain ⟨u, served, rfl⟩ := step_cases inv.seqOk next
  obtain ⟨wf, sound, first, last, -⟩ := inv
  cases served with
  | quiet idle => exact ⟨steadySeq_of_idle idle, [], (List.append_nil _).symm, agrees⟩
  | reset rest host => simp only [State.hostSteady, host] at hostSteady
  | plain idle w rest i host dec effect =>
    have steady := steady_of_host hostSteady host idle dec
    have stillIdle : u.seq = .idle := effect.seq_eq.trans idle
    refine ⟨steadySeq_of_idle stillIdle, [], ?_⟩
    cases effect with
    | wrn | xferraw => exact steady.elim
    | wrapStays => exact ⟨(List.append_nil _).symm, agrees⟩
    | brightBetween pct =>
      exact ⟨by simp, (pointerAgrees_backlitBy (i := .bright pct)).2 agrees⟩
  | polls idle w rest i k host dec place =>
    have steady := steady_of_host hostSteady host idle dec
    have moved := poll_keeps_pointer (s := ({ s with host := rest } : State).backlitBy i) (m := m)
      (by simpa using wf) (by simpa using first) (by simpa using last) (by simpa using on) (by simpa using off)
      ((waitPlace?_backlitBy _ i).trans place) (steady_backlitBy steady) (pointerAgrees_backlitBy.2 agrees)
    simp only [State.backlitBy_cfg, State.backlitBy_trace] at moved
    exact moved
  | pollsAgain op k run =>
    exact poll_keeps_pointer wf first last on off (sound.place run).2 (seqSteady op k run) agrees

end Sys2Proof.Machine
end

section
/-! Runs of polls: the hang, and the end after any number of busy answers (41_busy_flag_sync.md rules R90 and R93). -/

namespace Sys2Proof.Machine

/-- A poll reads the byte whose units the controller drives next. -/
theorem polled_of_answers {s : State} {b : Byte} {rest : List Byte}
    (h : s.answers = unitsOf s.cfg.width b ++ rest) : s.nextStatus = b ∧ s.polled.answers = rest := by
  cases width : s.cfg.width <;>
    simp [State.nextStatus, State.sampleUnit, toUnit, BusWidth.unitsPerByte, width, unitsOf, h] at h ⊢

theorem steps_succ {s t : State} (n : Nat) (h : step s = .next t) : steps (n + 1) s = steps n t := by
  simp only [steps, h]

/-- The read events of a run of polls, oldest first. -/
def readsOf (w : BusWidth) (bs : List Byte) : List Event :=
  bs.flatMap fun b => (unitsOf w b).map (Event.rd false)

theorem readsOf_cons (w : BusWidth) (b : Byte) (bs : List Byte) :
    readsOf w (b :: bs) = (unitsOf w b).map (Event.rd false) ++ readsOf w bs := List.flatMap_cons

/-- Settles O21, by induction on the answers: each busy one leaves the block waiting in the same operation. -/
theorem hangLastsAsLongAsBusyAnswers : Obligations.HangLastsAsLongAsBusyAnswers := by
  intro bs
  induction bs with
  | nil =>
    intro rest s op k inv run _ _ answers
    exact ⟨s, rfl, rfl, (inv.seqOk.place run).1, rfl, answers, (List.append_nil _).symm, rfl, rfl, rfl, rfl, rfl⟩
  | cons b bs ih =>
    intro rest s op k inv run conforms busy answers
    rw [List.flatMap_cons, List.append_assoc] at answers
    obtain ⟨status, left⟩ := polled_of_answers answers
    have answer : s.answersBusy = true := by rw [State.answersBusy, status]; exact busy b List.mem_cons_self
    have stepped : step s = .next (s.waiting op k).tick := (waitingBlockPollsAgain s op k inv run conforms).1 answer
    obtain ⟨t, goes, seq, lines, host, used, trace, col, row, enabled, compare, level⟩ :=
      ih rest (s.waiting op k).tick op k (stepKeepsInvariant s _ inv stepped) rfl conforms
        (fun b' h => busy b' (List.mem_cons_of_mem b h)) left
    refine ⟨t, (steps_succ _ stepped).trans goes, seq.trans run.symm, lines, host, used, ?_, col, row, enabled,
      compare, level⟩
    rw [trace, List.flatMap_cons, ← List.append_assoc]
    simp only [State.tick_trace, State.waiting_trace, State.polled_trace, status]
    rfl

/-! ## The end of the polls -/

/-- `t` is the block after `op` has ended, begun at `s`: its polls read `bs`, the last of them `v`. -/
structure Ended (s : State) (op : Instr) (bs : List Byte) (v : Byte) (rest : List Byte) (t : State) : Prop where
  seq : t.seq = .idle
  lines : IdleLines t
  host : t.host = s.host
  answers : t.answers = rest
  stat : t.stat = v
  trace : t.trace = s.trace ++ readsOf s.cfg.width bs ++ sentEvents s op
  cursor : (t.curCol, t.curRow) = s.cursorAfter op
  backlight : SameBacklight s t

theorem ended_of_ready {s : State} {op : Instr} {k : Nat} {v : Byte} {rest : List Byte} (inv : Inv s)
    (place : waitPlace? s op = some k) (answers : s.answers = unitsOf s.cfg.width v ++ rest) :
    Ended s op [v] v rest (s.finished op).tick := by
  obtain ⟨status, left⟩ := polled_of_answers answers
  exact
    { seq := State.finished_seq place
      lines := State.finished_lines place inv.seqOk.d_eq_zero
      host := s.finished_host op
      answers := (State.finished_answers place).trans left
      stat := (State.finished_stat place).trans status
      trace := by
        simp [State.finished_trace place, status, readsOf]
      cursor := State.finished_cursor place inv.wf
      backlight := ⟨s.finished_pwmEn op, s.finished_pwmCmp op, s.finished_bl op⟩ }

/-- A busy poll before them puts its events before the others' and changes nothing that the end depends on. -/
theorem Ended.of_waiting {s t : State} {op : Instr} {k : Nat} {bs : List Byte} {b v : Byte} {rest : List Byte}
    (status : s.nextStatus = b) (h : Ended (s.waiting op k).tick op bs v rest t) : Ended s op (b :: bs) v rest t := by
  obtain ⟨seq, lines, host, answers, stat, trace, cursor, backlight⟩ := h
  have sent : sentEvents (s.waiting op k).tick op = sentEvents s op := by cases op <;> rfl
  have after : (s.waiting op k).tick.cursorAfter op = s.cursorAfter op := by
    cases op with
    | xfer rs _ | xferraw rs _ => cases rs <;> rfl
    | _ => rfl
  refine ⟨seq, lines, host, answers, stat, ?_, cursor.trans after, backlight⟩
  rw [trace, sent, readsOf_cons, ← status]
  simp

/-- From the first poll of an operation to its end, by induction on the busy answers. -/
theorem polls_end (bs : List Byte) (v : Byte) (rest : List Byte) (op : Instr) (k : Nat) (s : State) (inv : Inv s)
    (place : waitPlace? s op = some k) (conforms : s.hostConforms = true) (busy : ∀ b ∈ bs, b.msb = true)
    (ready : v.msb = false) (answers : s.answers = (bs ++ [v]).flatMap (unitsOf s.cfg.width) ++ rest) :
    ∃ t, steps bs.length (s.poll op k).tick = .next t ∧ Ended s op (bs ++ [v]) v rest t := by
  induction bs generalizing s with
  | nil =>
    have answers' : s.answers = unitsOf s.cfg.width v ++ rest := by simpa using answers
    have answer : s.answersBusy = false := by rw [State.answersBusy, (polled_of_answers answers').1, ready]
    rw [State.poll_of_ready answer]
    exact ⟨_, rfl, ended_of_ready inv place answers'⟩
  | cons b bs ih =>
    rw [List.cons_append, List.flatMap_cons, List.append_assoc] at answers
    obtain ⟨status, left⟩ := polled_of_answers answers
    have answer : s.answersBusy = true := by rw [State.answersBusy, status]; exact busy b List.mem_cons_self
    have waits : Inv (s.waiting op k).tick := inv_tick_iff.2 (inv_waiting inv place answer)
    obtain ⟨t, goes, ended⟩ := ih (s.waiting op k).tick waits ((waitPlace?_waiting s op k).trans place) conforms
      (fun b' h => busy b' (List.mem_cons_of_mem b h)) left
    rw [State.poll_of_busy answer]
    exact ⟨t, (steps_succ _ (step_of_waiting waits.seqOk rfl conforms)).trans goes, ended.of_waiting status⟩

/-- An operation that polls in some state exists under its configuration. -/
theorem wf_of_waitPlace {s : State} {i : Instr} {k : Nat} (place : waitPlace? s i = some k) : i.WF s.cfg := by
  cases i with
  | wrn | xferraw => cases place
  | wrap =>
    obtain ⟨-, feature, -⟩ := waitPlace?_wrap_iff.1 place
    simp [Instr.WF, Instr.reserved?, feature]
  | _ => rfl

theorem sentEvents_backlitBy (s : State) (i : Instr) : sentEvents (s.backlitBy i) i = sentEvents s i := by
  cases i with
  | bright pct => simp [sentEvents, sentByte?]
  | _ => rfl

/-- The host's list and the backlight registers are written apart. -/
theorem backlitBy_host_comm (s : State) (rest : List HostAct) (i : Instr) :
    ({ s with host := rest } : State).backlitBy i = { s.backlitBy i with host := rest } := by
  cases i with
  | bright pct =>
    simp only [State.backlitBy, State.backlit]
    split_ifs <;> rfl
  | _ => rfl

/-- Settles O22. The step that accepts the operation is its first poll. -/
theorem polledOperationEndsAfterItsPolls : Obligations.PolledOperationEndsAfterItsPolls := by
  intro bs rest v s i k h inv idle place host conforms busy ready answers
  have dec : decode s.cfg (encode i) = .ok i := decodeOfEncode _ _ (wf_of_waitPlace place)
  have stepped : step s = .next (({ s.backlitBy i with host := h } : State).poll i k).tick := by
    rw [step_of_word idle (.inl host), dec]
    simp only [exec_of_polled (s := { s with host := h }) idle place, backlitBy_host_comm]
  obtain ⟨t, goes, ended⟩ := polls_end bs v rest i k { s.backlitBy i with host := h }
    (inv_host_iff.2 (inv_backlitBy inv idle i)) ((waitPlace?_backlitBy s i).trans place) conforms busy ready
    (by simpa using answers)
  refine ⟨t, (steps_succ _ stepped).trans goes, ended.seq, ended.lines, ended.host, ended.answers, ended.stat, ?_,
    ended.cursor.trans (s.cursorAfter_backlitBy i), ended.backlight⟩
  have sent : sentEvents { s.backlitBy i with host := h } i = sentEvents s i :=
    sentEvents_backlitBy s i
  rw [ended.trace, sent]
  simp only [State.backlitBy_trace, State.backlitBy_cfg]
  rfl

end Sys2Proof.Machine
end

section
/-! The machine one micro-step at a time (10_state.md rule R18): what a micro-step can do, and the big step of an
operation as a run of them. -/

namespace Sys2Proof.Machine

/-! ## One micro-step -/

/-- All that a micro-step can do at place `k` of the pseudocode `p`: end the operation, test, or write. -/
theorem microStep_cases {s : State} {op : Instr} {k : Nat} {p : List Micro} (run : s.seq = .run op k)
    (code : program s op = some p) :
    (p[k]? = none ∧ microStep s = { s with seq := .idle }) ∨
    (∃ back, p[k]? = some (.loop back) ∧
      microStep s = if s.busyFlag then { s with seq := .run op (k - back) } else { s with seq := .run op (k + 1) }) ∨
    (p[k]? = some .wrapTest ∧
      microStep s = if s.wrapMoves then { s with seq := .run op (k + 1) } else { s with seq := .idle }) ∨
    (∃ m, m.straight = true ∧ p[k]? = some m ∧ microStep s = { m.apply s with seq := .run op (k + 1) }) := by
  unfold microStep
  simp only [run, code]
  cases place : p[k]? with
  | none => exact .inl ⟨rfl, rfl⟩
  | some m =>
    cases m with
    | loop back => exact .inr (.inl ⟨back, rfl, rfl⟩)
    | wrapTest => exact .inr (.inr (.inl ⟨rfl, rfl⟩))
    | _ => exact .inr (.inr (.inr ⟨_, rfl, rfl, rfl⟩))

theorem microSteps_succ (n : Nat) (s : State) : microSteps (n + 1) s = microStep (microSteps n s) := by
  induction n generalizing s with
  | zero => rfl
  | succ n ih => exact ih (microStep s)

/-- `t` is reached by micro-steps, the block busy at every one of them before the last. -/
def Reaches (s t : State) : Prop :=
  ∃ n, microSteps n s = t ∧ ∀ m < n, (microSteps m s).busy = true

theorem Reaches.refl (s : State) : Reaches s s := ⟨0, rfl, fun _ h => absurd h (Nat.not_lt_zero _)⟩

theorem Reaches.head {s t : State} (busy : s.busy = true) (h : Reaches (microStep s) t) : Reaches s t := by
  obtain ⟨n, reached, before⟩ := h
  refine ⟨n + 1, reached, fun m hm => ?_⟩
  cases m with
  | zero => exact busy
  | succ m => exact before m (Nat.lt_of_succ_lt_succ hm)

/-! ## The pseudocode of WRAP, which a write of `CUR_ROW` changes -/

/-- The micro-steps of a WRAP that moves, before its cursor writes. -/
def wrapHeadCode (w : BusWidth) (v : Byte) : List Micro := .wrapTest :: (waitReady w ++ writeByte w false v)

/-- How many they are, whatever the byte. -/
def wrapHead (w : BusWidth) : Nat := (wrapHeadCode w 0).length

/-- Without a cell WRAP is its test; with one it is the test, a poll, a byte and the cursor writes. -/
theorem wrapCode_cases (c : Cfg) (row : BitVec 4) :
    wrapCode c row = [.wrapTest] ∨
      ∃ a, wrapCode c row =
        wrapHeadCode c.width (setAddressByte c a) ++
          (cursorEffect c false (setAddressByte c a) ++ [Micro.setCol (colNorm 1), Micro.setRow (row + 1)]) := by
  unfold wrapCode gotoCode
  cases addr c 1 (row + 1) with
  | none => exact .inl rfl
  | some a => exact .inr ⟨a, by simp [wrapHeadCode, transfer, transferRaw]⟩

theorem length_wrapHeadCode (w : BusWidth) (v : Byte) : (wrapHeadCode w v).length = wrapHead w := by
  cases w <;> rfl

theorem one_le_wrapHead (w : BusWidth) : 1 ≤ wrapHead w := Nat.le_add_left 1 _

/-- A micro-step that writes a cursor register. -/
def Micro.writesCursor : Micro → Bool
  | .incCol | .setCol _ | .setRow _ => true
  | _ => false

theorem cursorEffect_writesCursor (c : Cfg) (rs : Bool) (v : Byte) :
    (cursorEffect c rs v).all Micro.writesCursor = true := by
  unfold cursorEffect
  split_ifs <;> rfl

/-- No cursor register is written before the byte has been sent. -/
theorem wrapHead_le {c : Cfg} {row v : BitVec 4} {k : Nat} (h : (wrapCode c row)[k]? = some (.setRow v)) :
    wrapHead c.width ≤ k := by
  by_contra early
  obtain test | ⟨a, code⟩ := wrapCode_cases c row
  · rw [test] at h
    cases List.mem_singleton.1 (List.mem_of_getElem? h)
  · rw [code, List.getElem?_append_left (by rw [length_wrapHeadCode]; omega)] at h
    have inside := List.mem_of_getElem? h
    revert inside
    cases c.width <;> simp [wrapHeadCode, waitReady, readStatus, readUnit, writeByte, writeUnit, strobe]

/-- From there on WRAP's pseudocode writes the cursor only, whatever row it is looked up for. -/
theorem wrapCode_drop_writesCursor (c : Cfg) (row : BitVec 4) {k : Nat} (late : wrapHead c.width ≤ k) :
    ((wrapCode c row).drop k).all Micro.writesCursor = true := by
  obtain test | ⟨a, code⟩ := wrapCode_cases c row
  · rw [test, List.drop_eq_nil_of_le ((one_le_wrapHead c.width).trans late)]
    rfl
  · rw [code, List.drop_append, List.drop_eq_nil_of_le (by rwa [length_wrapHeadCode]), List.nil_append,
      List.all_eq_true]
    intro m hm
    obtain effect | last := List.mem_append.1 (List.mem_of_mem_drop hm)
    · exact List.all_eq_true.1 (cursorEffect_writesCursor c false _) m effect
    · simp only [List.mem_cons, List.not_mem_nil, or_false] at last
      obtain rfl | rfl := last <;> rfl

/-- Under a legal configuration the set-address byte has no cursor effect, and two cursor writes are left. -/
theorem wrapCode_drop_of_wf {c : Cfg} (wf : c.WF) (row : BitVec 4) :
    (wrapCode c row).drop (wrapHead c.width) = [] ∨
      (wrapCode c row).drop (wrapHead c.width) = [.setCol (colNorm 1), .setRow (row + 1)] := by
  obtain test | ⟨a, code⟩ := wrapCode_cases c row
  · exact .inl (by rw [test, List.drop_eq_nil_of_le (one_le_wrapHead c.width)])
  · have noEffect : cursorEffect c false (setAddressByte c a) = [] := by
      obtain ⟨-, -, clear, home⟩ := wf.2.1
      simp [cursorEffect, setAddressByte_ne wf a clear, setAddressByte_ne wf a home]
    exact .inr (by rw [code, noEffect, List.nil_append, List.drop_left' (length_wrapHeadCode _ _)])

/-! ## The run of an operation -/

/-- The block at micro-step `k` of `op`, its registers those of `s`. -/
def State.standing (op : Instr) (k : Nat) (s : State) : State := { s with seq := .run op k }

/-- The micro-steps left of `op` at place `k` are `q`. -/
def CodeAt (s : State) (op : Instr) (k : Nat) (q : List Micro) : Prop :=
  ∃ p, program s op = some p ∧ p.drop k = q

/-- Only WRAP's pseudocode depends on a register, `CUR_ROW`. -/
theorem program_congr {s t : State} {op : Instr} (cfg : t.cfg = s.cfg) (row : op = .wrap → t.curRow = s.curRow) :
    program t op = program s op := by
  cases op with
  | wrap => simp only [program, cfg, row rfl]
  | _ => simp only [program, cfg]

theorem Micro.apply_curRow {m : Micro} (h : ∀ v, m ≠ .setRow v) (s : State) : (m.apply s).curRow = s.curRow := by
  cases m with
  | setRow v => exact absurd rfl (h v)
  | _ => rfl

theorem drop_cons {α : Type} {p q : List α} {k : Nat} {m : α} (h : p.drop k = m :: q) :
    p[k]? = some m ∧ p.drop (k + 1) = q := by
  constructor
  · rw [← List.head?_drop, h]
    rfl
  · rw [← List.tail_drop, h]
    rfl

/-- Under a legal configuration a micro-step leaves the rest of its own pseudocode to be run. -/
theorem CodeAt.apply {s : State} {op : Instr} {k : Nat} {m : Micro} {q : List Micro} (wf : s.cfg.WF)
    (h : CodeAt s op k (m :: q)) : CodeAt (m.apply s) op (k + 1) q := by
  obtain ⟨p, code, rest⟩ := h
  obtain ⟨here, after⟩ := drop_cons rest
  have cfg : (m.apply s).cfg = s.cfg := (m.apply_grown s).1
  by_cases lastLine : op = .wrap ∧ ∃ v, m = .setRow v
  · obtain ⟨rfl, v, rfl⟩ := lastLine
    simp only [program, Option.ite_none_right_eq_some, Option.some.injEq] at code
    obtain ⟨feature, rfl⟩ := code
    obtain ⟨d, rfl⟩ := Nat.exists_eq_add_of_le (wrapHead_le here)
    have ending : d = 1 ∧ q = [] := by
      rw [← List.drop_drop] at rest
      obtain none | two := wrapCode_drop_of_wf wf s.curRow
      · rw [none, List.drop_nil] at rest
        cases rest
      · rw [two] at rest
        obtain _ | _ | d := d
        · cases rest
        · cases rest
          exact ⟨rfl, rfl⟩
        · simp at rest
    obtain ⟨rfl, rfl⟩ := ending
    refine ⟨wrapCode s.cfg v, if_pos feature, ?_⟩
    rw [Nat.add_assoc, ← List.drop_drop]
    obtain none | two := wrapCode_drop_of_wf wf v
    · rw [none]; rfl
    · rw [two]; rfl
  · refine ⟨p, (program_congr cfg fun isWrap => ?_).trans code, after⟩
    exact Micro.apply_curRow (fun v hv => lastLine ⟨isWrap, v, hv⟩) s

/-- `runFrom` is a run of micro-steps, by induction on the micro-steps left. -/
theorem reaches_runFrom {op : Instr} (q : List Micro) (k : Nat) (s : State) (wf : s.cfg.WF)
    (h : CodeAt s op k q) : Reaches (s.standing op k) (runFrom op k q s) := by
  induction q generalizing k s with
  | nil =>
    obtain ⟨p, code, rest⟩ := h
    refine .head rfl ?_
    have past : p[k]? = none := by rw [← List.head?_drop, rest]; rfl
    obtain ⟨-, ends⟩ | ⟨back, place, -⟩ | ⟨place, -⟩ | ⟨m, -, place, -⟩ :=
      microStep_cases (s := s.standing op k) rfl code
    · rw [ends, runFrom_nil]
      exact .refl _
    all_goals cases past.symm.trans place
  | cons m q ih =>
    obtain ⟨p, code, rest⟩ := id h
    obtain ⟨here, after⟩ := drop_cons rest
    have goesOn := ih (k + 1) s wf ⟨p, code, after⟩
    refine .head rfl ?_
    obtain ⟨place, -⟩ | ⟨back, place, stepped⟩ | ⟨place, stepped⟩ | ⟨m', straight, place, stepped⟩ :=
      microStep_cases (s := s.standing op k) rfl code
    · cases here.symm.trans place
    · cases here.symm.trans place
      have flag : (s.standing op k).busyFlag = s.busyFlag := rfl
      rw [stepped, runFrom_loop, flag]
      split
      · exact .refl _
      · exact goesOn
    · cases here.symm.trans place
      have moves : (s.standing op k).wrapMoves = s.wrapMoves := rfl
      rw [stepped, runFrom_wrapTest, moves]
      split
      · exact goesOn
      · exact .refl _
    · cases here.symm.trans place
      have written : ({ m.apply (s.standing op k) with seq := .run op (k + 1) } : State) =
          (m.apply s).standing op (k + 1) := by cases m <;> rfl
      rw [stepped, runFrom_cons straight, written]
      exact ih (k + 1) (m.apply s) ((m.apply_grown s).1 ▸ wf) (h.apply wf)

/-- Settles O42. What `exec` answers is `runFrom` of the whole pseudocode. -/
theorem operationIsItsMicroSteps : Obligations.OperationIsItsMicroSteps := by
  intro s t i wf idle run
  obtain ⟨-, p, code, rfl⟩ := exec_program run
  show Reaches (s.standing i 0) (runFrom i 0 p s)
  exact reaches_runFrom p 0 s wf ⟨p, code, rfl⟩

end Sys2Proof.Machine
end

section
/-! The discipline of the lines at every micro-step (10_state.md rule R25, 40_bus_transport.md rules R75 and R83,
41_busy_flag_sync.md rule R92). Six modes of the line registers and the micro-steps each of them admits; every
pseudocode goes from the idle mode back to it. -/

namespace Sys2Proof.Machine

/-! ## The modes -/

/-- How the lines stand between two micro-steps. -/
inductive LineMode
  /-- outputs, no strobe -/
  | quiet
  /-- outputs, in a write strobe -/
  | strobing
  /-- inputs, `RW` and `RS` still to be set -/
  | turning
  /-- inputs for a status read, `RW` low -/
  | turned
  /-- inputs for a status read, `RW` high, no strobe -/
  | reading
  /-- in the strobe of a status read -/
  | sampling

/-- The registers in each mode. -/
def LineMode.Holds (s : State) : LineMode → Prop
  | .quiet => s.e = false ∧ s.rw = false ∧ s.dir = .output
  | .strobing => s.e = true ∧ s.rw = false ∧ s.dir = .output
  | .turning => s.e = false ∧ s.rw = false ∧ s.dir = .input
  | .turned => s.e = false ∧ s.rw = false ∧ s.dir = .input ∧ s.rs = false
  | .reading => s.e = false ∧ s.rw = true ∧ s.dir = .input ∧ s.rs = false
  | .sampling => s.e = true ∧ s.rw = true ∧ s.dir = .input ∧ s.rs = false

/-- The mode after a micro-step, where the mode admits it. -/
def LineMode.next (l : LineMode) (m : Micro) : Option LineMode :=
  match l with
  | .quiet =>
    match m with
    | .setE true => some .strobing
    | .setDir .input => some .turning
    | .setRs _ | .loadD _ | .emitWrite | .wrapTest => some .quiet
    | .incCol | .setCol _ | .setRow _ | .setPwmEn _ | .setPwmCmp _ | .setBl _ => some .quiet
    | _ => none
  | .strobing =>
    match m with
    | .setE false => some .quiet
    | _ => none
  | .turning =>
    match m with
    | .setRs false => some .turned
    | _ => none
  | .turned =>
    match m with
    | .setRw true => some .reading
    | .setDir .output => some .quiet
    | _ => none
  | .reading =>
    match m with
    | .setE true => some .sampling
    | .emitRead | .keepHigh | .statWide | .statNarrow | .loop _ => some .reading
    | .setRw false => some .turned
    | _ => none
  | .sampling =>
    match m with
    | .sample => some .sampling
    | .setE false => some .reading
    | _ => none

/-- The mode after a run of micro-steps. -/
def LineMode.after (l : LineMode) (p : List Micro) : Option LineMode := p.foldlM LineMode.next l

theorem LineMode.after_cons (l : LineMode) (m : Micro) (p : List Micro) :
    l.after (m :: p) = (l.next m).bind fun l' => l'.after p := List.foldlM_cons

theorem LineMode.after_append (l : LineMode) (p q : List Micro) :
    l.after (p ++ q) = (l.after p).bind fun l' => l'.after q := List.foldlM_append

theorem LineMode.holds_apply {l l' : LineMode} {m : Micro} {s : State} (h : l.Holds s) (hm : l.next m = some l') :
    l'.Holds (m.apply s) := by
  unfold LineMode.next at hm
  cases l <;> dsimp only at hm <;> split at hm <;> cases hm <;> simp_all [LineMode.Holds]

theorem LineMode.wireOk {l : LineMode} {s : State} (h : l.Holds s) : WireOk s := by
  cases l <;> simp_all [LineMode.Holds, WireOk]

/-- A strobe admits its end and the sample only. -/
theorem LineMode.next_of_strobe {l l' : LineMode} {m : Micro} {s : State} (h : l.Holds s) (hm : l.next m = some l')
    (strobe : s.e = true) : m = .setE false ∨ m = .sample := by
  cases l with
  | quiet | turning | turned | reading => exact absurd (h.1.symm.trans strobe) Bool.false_ne_true
  | strobing | sampling =>
    unfold LineMode.next at hm
    dsimp only at hm
    split at hm <;> simp_all

theorem LineMode.sameLines_apply {l l' : LineMode} {m : Micro} {s : State} (h : l.Holds s)
    (hm : l.next m = some l') (strobe : s.e = true ∨ (m.apply s).e = true) : sameLines s (m.apply s) := by
  cases begins : s.e with
  | true =>
    obtain rfl | rfl := next_of_strobe h hm begins <;> exact ⟨rfl, rfl, rfl, rfl⟩
  | false =>
    have rises : (m.apply s).e = true := strobe.resolve_left (by simp [begins])
    cases m with
    | setE v => exact ⟨rfl, rfl, rfl, rfl⟩
    | _ => exact absurd (begins.symm.trans rises) Bool.false_ne_true

/-! ## The pseudocodes -/

/-- Code that leaves the lines idle and has no loop. -/
def Unlooped (p : List Micro) : Prop := LineMode.quiet.after p = some .quiet ∧ ∀ back, .loop back ∉ p

theorem Unlooped.nil : Unlooped [] := ⟨rfl, fun _ => List.not_mem_nil⟩

theorem Unlooped.append {p q : List Micro} (hp : Unlooped p) (hq : Unlooped q) : Unlooped (p ++ q) := by
  refine ⟨?_, fun back h => (List.mem_append.1 h).elim (hp.2 back) (hq.2 back)⟩
  rw [LineMode.after_append, hp.1]
  exact hq.1

/-- A register write that is none of the lines'. -/
def Micro.writesNoLine : Micro → Bool
  | .setPwmEn _ | .setPwmCmp _ | .setBl _ | .wrapTest => true
  | m => m.writesCursor

theorem Micro.quiet_of_writesNoLine {m : Micro} (h : m.writesNoLine = true) :
    LineMode.quiet.next m = some .quiet ∧ ∀ back, m ≠ .loop back := by
  cases m <;> simp_all [Micro.writesNoLine, Micro.writesCursor, LineMode.next]

theorem Micro.writesNoLine_of_writesCursor {m : Micro} (h : m.writesCursor = true) : m.writesNoLine = true := by
  cases m <;> simp_all [Micro.writesNoLine, Micro.writesCursor]

theorem unlooped_of_writesNoLine {p : List Micro} (h : p.all Micro.writesNoLine = true) : Unlooped p := by
  induction p with
  | nil => exact .nil
  | cons m p ih =>
    rw [List.all_cons, Bool.and_eq_true] at h
    obtain ⟨stays, noLoop⟩ := Micro.quiet_of_writesNoLine h.1
    have one : Unlooped [m] :=
      ⟨by rw [LineMode.after_cons, stays]; rfl, fun back hm => noLoop back (List.mem_singleton.1 hm).symm⟩
    exact one.append (ih h.2)

theorem unlooped_of_writesCursor {p : List Micro} (h : p.all Micro.writesCursor = true) : Unlooped p := by
  exact unlooped_of_writesNoLine
    (List.all_eq_true.2 fun m hm => Micro.writesNoLine_of_writesCursor (List.all_eq_true.1 h m hm))

theorem not_loop_of_straight {p : List Micro} (h : p.all Micro.straight = true) (back : Nat) : .loop back ∉ p :=
  fun hm => absurd (List.all_eq_true.1 h _ hm) Bool.false_ne_true

theorem unlooped_writeByte (w : BusWidth) (rs : Bool) (v : Byte) : Unlooped (writeByte w rs v) :=
  ⟨by cases w <;> rfl, not_loop_of_straight (writeByte_straight w rs v)⟩

theorem unlooped_transferRaw (c : Cfg) (rs : Bool) (v : Byte) : Unlooped (transferRaw c rs v) :=
  (unlooped_writeByte c.width rs v).append (unlooped_of_writesCursor (cursorEffect_writesCursor c rs v))

theorem unlooped_wrnCode (rs : Bool) (u : Byte) : Unlooped (wrnCode rs u) :=
  ⟨rfl, not_loop_of_straight rfl⟩

/-- A pseudocode has no poll loop, or one, between code that leaves the lines idle. -/
def Polling (w : BusWidth) (p : List Micro) : Prop :=
  Unlooped p ∨ ∃ pre post, Unlooped pre ∧ Unlooped post ∧ p = pre ++ waitReady w ++ post

theorem polling_transfer (c : Cfg) (rs : Bool) (v : Byte) {pre post : List Micro} (hpre : Unlooped pre)
    (hpost : Unlooped post) : Polling c.width (pre ++ transfer c rs v ++ post) :=
  .inr ⟨pre, transferRaw c rs v ++ post, hpre, (unlooped_transferRaw c rs v).append hpost, by simp [transfer]⟩

theorem polling_gotoCode {c : Cfg} {col : BitVec 8} {row : BitVec 4} {p pre : List Micro} (hpre : Unlooped pre)
    (h : gotoCode c col row = some p) : Polling c.width (pre ++ p) := by
  obtain ⟨a, -, rfl⟩ := Option.map_eq_some_iff.1 h
  rw [← List.append_assoc]
  exact polling_transfer c false _ hpre (unlooped_of_writesCursor rfl)

theorem polling_brightCode (c : Cfg) (pct : BitVec 8) : Polling c.width (brightCode c pct) := by
  unfold brightCode
  split
  · simpa using polling_transfer c false c.cmdDisplayOn
      (pre := [.setPwmEn false, .setPwmCmp c.pwmTop, .setBl .on]) (unlooped_of_writesNoLine rfl) .nil
  · split
    · simpa using polling_transfer c false c.cmdDisplayOff
        (pre := [.setPwmEn false, .setPwmCmp 0, .setBl .off]) (unlooped_of_writesNoLine rfl) .nil
    · exact .inl (unlooped_of_writesNoLine rfl)

theorem polling_program {s : State} {i : Instr} {p : List Micro} (code : program s i = some p) :
    Polling s.cfg.width p := by
  cases i with
  | waitrdy => cases code; exact .inr ⟨[], [], .nil, .nil, by simp⟩
  | wrn rs u => cases code; exact .inl (unlooped_wrnCode rs u)
  | xferraw rs v => cases code; exact .inl (unlooped_transferRaw _ rs v)
  | xfer rs v => cases code; simpa using polling_transfer s.cfg rs v .nil .nil
  | goto col row => exact polling_gotoCode .nil code
  | wrap =>
    simp only [program, Option.ite_none_right_eq_some, Option.some.injEq] at code
    obtain ⟨-, rfl⟩ := code
    have test : Unlooped [.wrapTest] := unlooped_of_writesNoLine rfl
    unfold wrapCode
    cases cell : gotoCode s.cfg 1 (s.curRow + 1) with
    | none => exact .inl test
    | some p => exact polling_gotoCode test cell
  | bright pct => cases code; exact polling_brightCode s.cfg pct

theorem Polling.after_quiet {w : BusWidth} {p : List Micro} (h : Polling w p) :
    LineMode.quiet.after p = some .quiet := by
  obtain plain | ⟨pre, post, hpre, hpost, rfl⟩ := h
  · exact plain.1
  · have waits : LineMode.quiet.after (waitReady w) = some .quiet := by cases w <;> rfl
    simp only [LineMode.after_append, hpre.1, waits, hpost.1, Option.bind_some]

/-- The loop of WAITRDY goes back to its fourth micro-step. -/
theorem loop_of_waitReady {w : BusWidth} {j back : Nat} (h : (waitReady w)[j]? = some (.loop back)) :
    j = 3 + back := by
  obtain ⟨inside, -⟩ := List.getElem?_eq_some_iff.1 h
  cases w <;> simp [waitReady, readStatus, readUnit] at inside <;> interval_cases j <;>
    simp [waitReady, readStatus, readUnit] at h <;> omega

/-- Where the poll loop goes back to, the lines are those of a read, as at the loop's end. -/
theorem Polling.after_loop {w : BusWidth} {p : List Micro} (h : Polling w p) {k back : Nat}
    (place : p[k]? = some (.loop back)) : LineMode.reading.after (p.drop (k - back)) = some .quiet := by
  obtain plain | ⟨pre, post, hpre, hpost, rfl⟩ := h
  · exact absurd (List.mem_of_getElem? place) (plain.2 back)
  · rw [List.append_assoc] at place ⊢
    have afterPre : pre.length ≤ k := by
      by_contra early
      rw [List.getElem?_append_left (by omega)] at place
      exact hpre.2 back (List.mem_of_getElem? place)
    obtain ⟨j, rfl⟩ := Nat.exists_eq_add_of_le afterPre
    rw [List.getElem?_append_right (by omega), Nat.add_sub_cancel_left] at place
    have inLoop : j < (waitReady w).length := by
      by_contra late
      rw [List.getElem?_append_right (by omega)] at place
      exact hpost.2 back (List.mem_of_getElem? place)
    rw [List.getElem?_append_left inLoop] at place
    obtain rfl := loop_of_waitReady place
    have back3 : pre.length + (3 + back) - back = pre.length + 3 := by omega
    have polls : LineMode.reading.after ((waitReady w).drop 3) = some .quiet := by cases w <;> rfl
    have three : 3 ≤ (waitReady w).length := by cases w <;> decide
    rw [back3, List.drop_length_add_append, List.drop_append_of_le_length three, LineMode.after_append, polls]
    exact hpost.1

/-! ## The invariant of the micro-steps -/

/-- Idle with the lines idle, or in a mode from which the micro-steps left lead back to that. -/
def Disciplined (s : State) : Prop :=
  match s.seq with
  | .idle => LineMode.quiet.Holds s
  | .run op k => ∃ p l, program s op = some p ∧ LineMode.Holds s l ∧ l.after (p.drop k) = some .quiet

theorem disciplined_of_idle {s : State} (idle : s.seq = .idle) (h : LineMode.quiet.Holds s) : Disciplined s := by
  simpa only [Disciplined, idle] using h

theorem disciplined_of_run {s : State} {op : Instr} {k : Nat} {p : List Micro} {l : LineMode}
    (run : s.seq = .run op k) (code : program s op = some p) (h : l.Holds s) (left : l.after (p.drop k) = some .quiet) :
    Disciplined s := by
  simp only [Disciplined, run]
  exact ⟨p, l, code, h, left⟩

theorem disciplined_accepted {s : State} {i : Instr} (idle : IdleLines s) (runs : (program s i).isSome = true) :
    Disciplined (accepted i s) := by
  obtain ⟨p, code⟩ := Option.isSome_iff_exists.1 runs
  obtain ⟨he, hrw, hdir, -⟩ := idle
  exact disciplined_of_run (l := .quiet) rfl code ⟨he, hrw, hdir⟩ (polling_program code).after_quiet

/-- A mode from which code is admitted admits its first micro-step, and the rest from the mode after it. -/
theorem LineMode.after_drop {l : LineMode} {p : List Micro} {k : Nat} {m : Micro} (place : p[k]? = some m)
    (left : l.after (p.drop k) = some .quiet) :
    ∃ l', l.next m = some l' ∧ l'.after (p.drop (k + 1)) = some .quiet := by
  obtain ⟨inside, rfl⟩ := List.getElem?_eq_some_iff.1 place
  rw [List.drop_eq_getElem_cons inside, LineMode.after_cons] at left
  exact Option.bind_eq_some_iff.1 left

/-- The code left is admitted after a micro-step too, also when it is the write of `CUR_ROW` that makes WRAP's
pseudocode another one. No legal `cfg` is assumed (notes/assumptions/5.md): from that write on only cursor registers are
left to be written. -/
theorem program_apply {s : State} {op : Instr} {k : Nat} {p : List Micro} {m : Micro} {l l' : LineMode}
    (code : program s op = some p) (place : p[k]? = some m) (hm : l.next m = some l')
    (left : l'.after (p.drop (k + 1)) = some .quiet) :
    ∃ p', program (m.apply s) op = some p' ∧ l'.after (p'.drop (k + 1)) = some .quiet := by
  have cfg : (m.apply s).cfg = s.cfg := (m.apply_grown s).1
  by_cases rewrites : op = .wrap ∧ ∃ v, m = .setRow v
  · obtain ⟨rfl, v, rfl⟩ := rewrites
    simp only [program, Option.ite_none_right_eq_some, Option.some.injEq] at code
    obtain ⟨feature, rfl⟩ := code
    have quiet : l' = .quiet := by cases l <;> cases hm; rfl
    subst quiet
    refine ⟨wrapCode s.cfg v, if_pos feature, ?_⟩
    exact (unlooped_of_writesCursor
      (wrapCode_drop_writesCursor s.cfg v ((wrapHead_le place).trans (Nat.le_succ k)))).1
  · refine ⟨p, (program_congr cfg fun isWrap => ?_).trans code, left⟩
    exact Micro.apply_curRow (fun v hv => rewrites ⟨isWrap, v, hv⟩) s

theorem disciplined_microStep {s : State} (h : Disciplined s) :
    Disciplined (microStep s) ∧ ((s.e = true ∨ (microStep s).e = true) → sameLines s (microStep s)) := by
  have unchanged : sameLines s s := ⟨rfl, rfl, rfl, rfl⟩
  cases run : s.seq with
  | idle =>
    have stays : microStep s = s := by simp only [microStep, run]
    rw [stays]
    exact ⟨h, fun _ => unchanged⟩
  | run op k =>
    simp only [Disciplined, run] at h
    obtain ⟨p, l, code, holds, left⟩ := h
    obtain ⟨place, stepped⟩ | ⟨back, place, stepped⟩ | ⟨place, stepped⟩ | ⟨m, -, place, stepped⟩ :=
      microStep_cases run code
    · rw [stepped]
      rw [List.drop_eq_nil_of_le (List.getElem?_eq_none_iff.1 place)] at left
      cases left
      exact ⟨disciplined_of_idle rfl holds, fun _ => unchanged⟩
    · obtain ⟨l', hm, left'⟩ := LineMode.after_drop place left
      have reading : l = .reading ∧ l' = .reading := by cases l <;> cases hm; exact ⟨rfl, rfl⟩
      obtain ⟨rfl, rfl⟩ := reading
      rw [stepped]
      split
      · exact ⟨disciplined_of_run (l := .reading) rfl code holds ((polling_program code).after_loop place),
          fun _ => unchanged⟩
      · exact ⟨disciplined_of_run (l := .reading) rfl code holds left', fun _ => unchanged⟩
    · obtain ⟨l', hm, left'⟩ := LineMode.after_drop place left
      have quiet : l = .quiet ∧ l' = .quiet := by cases l <;> cases hm; exact ⟨rfl, rfl⟩
      obtain ⟨rfl, rfl⟩ := quiet
      rw [stepped]
      split
      · exact ⟨disciplined_of_run (l := .quiet) rfl code holds left', fun _ => unchanged⟩
      · exact ⟨disciplined_of_idle rfl holds, fun _ => unchanged⟩
    · obtain ⟨l', hm, left'⟩ := LineMode.after_drop place left
      obtain ⟨p', code', left''⟩ := program_apply code place hm left'
      rw [stepped]
      exact ⟨disciplined_of_run (p := p') (l := l') rfl code' (LineMode.holds_apply holds hm) left'',
        LineMode.sameLines_apply holds hm⟩

theorem disciplined_microSteps {s : State} {i : Instr} (idle : IdleLines s) (runs : (program s i).isSome = true)
    (n : Nat) : Disciplined (microSteps n (accepted i s)) := by
  induction n with
  | zero => exact disciplined_accepted idle runs
  | succ n ih =>
    rw [microSteps_succ]
    exact (disciplined_microStep ih).1

/-- Settles O44. Every mode of the lines is one the wires allow. -/
theorem linesKeepDirectionDiscipline : Obligations.LinesKeepDirectionDiscipline := by
  intro s i n idle runs
  have disciplined := disciplined_microSteps idle runs n
  unfold Disciplined at disciplined
  split at disciplined
  · exact LineMode.wireOk disciplined
  · obtain ⟨p, l, -, holds, -⟩ := disciplined
    exact LineMode.wireOk holds

/-- Settles O45. A mode in a strobe admits no write of a line but `E`, and `E` rises by itself. -/
theorem linesStableDuringStrobe : Obligations.LinesStableDuringStrobe := by
  intro s i n idle runs
  rw [microSteps_succ]
  exact (disciplined_microStep (disciplined_microSteps idle runs n)).2

end Sys2Proof.Machine
end
